-- ==== Sys2Proof/Word.lean ====
section
/-! DEFINITION. The word types of the Mirage RLE encoder core. -/

namespace Sys2Proof

/-- One byte of the token stream or of the output (R50, R57). -/
abbrev Byte := BitVec 8

/-- One pixel: R in bits 31:24, G in 23:16, B in 15:8, component 4 in 7:0 (R70). -/
abbrev Pixel := BitVec 32

/-- One host command, format CMD40: DATA in bits 39:8, OPC in 7:0 (R71). -/
abbrev CommandWord := BitVec 40

/-- A 32-bit RESULT value (R36, R74). -/
abbrev ResultWord := BitVec 32

/-- A palette index as a token carries it: 3 bits, 0 is the sentinel (R75). -/
abbrev PalIndex := BitVec 3

end Sys2Proof
end

