-- ==== Sys2Proof/Config.lean ====
section
/-! DEFINITION. What an instance of the block fixes (R8, R9), the constants of the spec, and the free values. -/

namespace Sys2Proof

/-- What END_INPUT does with a partial final chunk (R9, D7). -/
inductive PadPolicy where
  /-- Fill positions FILL..63 with the sentinel and scan the chunk. -/
  | padSentinel
  /-- Raise MALFORMED_INPUT. -/
  | reject
  deriving DecidableEq, Repr

/-- The capacity of the token buffer (R9, D8). -/
inductive TokCap where
  /-- No limit. -/
  | unbounded
  /-- A capacity in bytes; an instance has at least 64 (`Params.legal`). -/
  | bytes (n : Nat)
  deriving DecidableEq, Repr

/-- The parameters of one instance of the block, with the defaults of R9. -/
structure Params where
  padPolicy : PadPolicy := .padSentinel
  tokCap : TokCap := .unbounded
  deriving DecidableEq, Repr

namespace Config

/-- CHUNK: pixels in a chunk (R8). -/
abbrev chunk : Nat := 64

/-- PAL_CAP: entries of the registry, the sentinel among them (R8). -/
abbrev palCap : Nat := 8

/-- The transparency sentinel: R=255, G=0, B=255, component 4 = 255 (R12, R70). -/
abbrev sentinel : Pixel := 0xFF00FFFF#32

/-- NO_DATA, the answer of a READ_OUT that has no byte to give (R74). -/
abbrev noData : ResultWord := 0xFFFFFFFF#32

/-- FREE VALUE. The value of a 32-bit length register (TOK_LEN, OUT_LEN, OUT_RD) after a sum that no 32-bit register
holds: the spec lets TOK_CAP be UNBOUNDED and does not say what such a register then reads. The argument is the
state's `freeCount`. (DESIGN CHOICE, log entry 8.) -/
opaque freeLength : Nat → BitVec 32

end Config

end Sys2Proof
end

