-- ==== Sys2Proof/Syntax.lean ====
section
/-! DEFINITION. The instructions: one constructor per row of spec/opcode_table.json, and the forms in which an
instruction is presented to the block. -/

namespace Sys2Proof

/-- The six host commands (R72) and the two token forms (R76, R77). DATA is an operand of PUSH_PIXEL alone; every other
command ignores it (R71). -/
inductive Instr where
  /-- NOP: answer STATUS (R183). -/
  | nop
  /-- START: open a new encode operation (R184). -/
  | start
  /-- PUSH_PIXEL: deliver one input pixel (R185). -/
  | pushPixel (p : Pixel)
  /-- END_INPUT: end the input, pad or reject a partial chunk, serialize (R186). -/
  | endInput
  /-- READ_OUT: deliver the next output byte (R187). -/
  | readOut
  /-- READ_OUTLEN: answer OUT_LEN (R188). -/
  | readOutLen
  /-- TOKEN.SHORT: emit TOK(i, h, 0), format TOK8 (R151). -/
  | tokenShort (i : PalIndex) (h : BitVec 4)
  /-- TOKEN.LONG: emit TOK(i, h, t), format TOK16 (R152). -/
  | tokenLong (i : PalIndex) (h t : BitVec 6)
  deriving DecidableEq, Repr

/-- An instruction as it is presented to the block. -/
inductive Fetched where
  /-- A CMD40 word on the host's command port (R71). -/
  | command (w : CommandWord)
  /-- A token presented to the packer: its first byte, and the byte after it, which only the long form uses (R79).
  No host of the hardware can present one (log entry 3). -/
  | token (b0 b1 : Byte)
  deriving DecidableEq, Repr

/-- What the outside world does next. -/
inductive PortEvent where
  /-- The external reset of R240. -/
  | reset
  /-- An instruction is issued. -/
  | issue (f : Fetched)
  deriving DecidableEq, Repr

end Sys2Proof
end

