-- ==== Sys2Proof/Machine/State.lean ====
section
/-! DEFINITION. The state of the block (R20), its reasons to stop, and the state after reset (R38). -/

namespace Sys2Proof.Machine

/-- STATE, a 2-bit register whose four encodings are all legal (R22). -/
inductive OpState where
  /-- 0: no encode operation is open. -/
  | idle
  /-- 1: an encode operation is open and takes pixels. -/
  | accepting
  /-- 2: the operation succeeded and the output is readable. -/
  | done
  /-- 3: the operation failed; there is no output. -/
  | error
  deriving DecidableEq, Repr

/-- ERR, a 3-bit register; the codes 5 to 7 are never written (R24, R210). -/
inductive ErrCode where
  /-- 0: no error. -/
  | none
  /-- 1: an 8th real colour is needed (R211). -/
  | paletteFull
  /-- 2: a partial chunk at END_INPUT under PAD_POLICY = REJECT (R213). -/
  | malformedInput
  /-- 3: a token does not fit in TOKBUF (R214). -/
  | outputOverflow
  /-- 4: a token length is out of its field's range (R215). -/
  | lengthAssert
  deriving DecidableEq, Repr

/-- A byte-indexed memory: (index, byte) pairs, indices strictly rising; an index not listed holds no value. -/
abbrev Memory := List Host.Cell

/-- Everything the block holds. The spec's own elements are those of R20 and R36; `params` are the instance's fixed
parameters (R9, log entry 5); `freeCount` and `port` are the model's own. -/
structure State where
  /-- PAD_POLICY and TOK_CAP. No step writes them (R20, R243). -/
  params : Params
  /-- STATE (R22). -/
  state : OpState
  /-- ERR (R24). -/
  err : ErrCode
  /-- REJ (R25). -/
  rej : Bool
  /-- PAL[1..7], PAL[k] at position k - 1; PAL[0] is hard-wired and not stored (R26). -/
  pal : Vector Pixel 7
  /-- PAL_SIZE (R27). -/
  palSize : BitVec 4
  /-- CHUNK_BUF (R30). -/
  chunkBuf : Vector Pixel 64
  /-- FILL (R31). -/
  fill : BitVec 7
  /-- HEAD (R29). -/
  head : BitVec 7
  /-- TAIL (R29). -/
  tail : BitVec 6
  /-- TOKBUF (R33). -/
  tokBuf : Memory
  /-- TOK_LEN (R33). -/
  tokLen : BitVec 32
  /-- OUT_LEN (R34). -/
  outLen : BitVec 32
  /-- OUT_RD (R34). -/
  outRd : BitVec 32
  /-- CHUNKS (R32). -/
  chunks : BitVec 14
  /-- CMD, the opcode of the command last issued (R36, log entry 2). -/
  cmd : BitVec 8
  /-- DATA, the operand of the command last issued (R36, log entry 2). -/
  data : BitVec 32
  /-- RESULT of the command last completed (R36, log entry 2). -/
  result : ResultWord
  /-- The model's own: how many free values `Config.freeLength` has supplied (log entry 8). -/
  freeCount : Nat
  /-- The model's own: what the outside world is still to do, oldest first (log entry 1). -/
  port : List PortEvent
  deriving DecidableEq, Repr

/-- The block right after reset (R38). The spec states no value for PAL[1..7], CHUNK_BUF, HEAD and TAIL, nor for CMD,
DATA and RESULT: the zeros are DESIGN CHOICE (log entries 2 and 6). TOKBUF lists nothing: none of its bytes holds a
value. The parameters are the defaults of R9. -/
def State.reset : State where
  params := {}
  state := .idle
  err := .none
  rej := false
  pal := Vector.replicate 7 0#32
  palSize := 1#4
  chunkBuf := Vector.replicate 64 0#32
  fill := 0#7
  head := 0#7
  tail := 0#6
  tokBuf := []
  tokLen := 0#32
  outLen := 0#32
  outRd := 0#32
  chunks := 0#14
  cmd := 0#8
  data := 0#32
  result := 0#32
  freeCount := 0
  port := []

/-- Why a step can stop with a fault. No run from reset takes one; the spec's own errors are no faults of the model but
next states (R220, log entry 9). -/
inductive Fault where
  /-- Raised by READ_OUT when the output byte it asks for holds no value (R242; log entry 7). Safe: the model stops where
  the spec performs no read. -/
  | outNoValue
  /-- Raised by PUSH_PIXEL when FILL is above 63, where CHUNK_BUF has no entry (R30, R31; log entry 12). Safe: no legal
  state has such a FILL. -/
  | chunkBufRange
  deriving DecidableEq, Repr

/-- Why a step can be refused. -/
inductive Refusal where
  /-- Raised by `exec` for an instruction that has no meaning yet; no arm raises it. Safe: nothing can be proved of such
  a step. -/
  | notModelled (mnemonic : String)
  deriving DecidableEq, Repr

end Sys2Proof.Machine
end

