-- ==== Sys2Proof/Machine/Flags.lean ====
section
/-! DEFINITION. The status word and the flags in it (R35, R37): every field is computed from the state. -/

namespace Sys2Proof.Machine

/-- The encoding of STATE (R22). -/
def stateBits : OpState → BitVec 2
  | .idle => 0
  | .accepting => 1
  | .done => 2
  | .error => 3

/-- The encoding of ERR (R24, R210). -/
def errBits : ErrCode → BitVec 3
  | .none => 0
  | .paletteFull => 1
  | .malformedInput => 2
  | .outputOverflow => 3
  | .lengthAssert => 4

/-- The number of real colours, PAL_SIZE - 1 (R27). -/
def realColours (s : State) : Nat := s.palSize.toNat - 1

/-- STATUS: `{CHUNKS[31:18], FILL[17:12], 0, NCOL[10:8], 0, ERR[6:4], 0, REJ[2], STATE[1:0]}` (R35, D6). -/
def status (s : State) : ResultWord :=
  s.chunks ++ s.fill.extractLsb' 0 6 ++ 0#1 ++ BitVec.ofNat 3 (realColours s) ++ 0#1 ++ errBits s.err ++ 0#1
    ++ BitVec.ofBool s.rej ++ stateBits s.state

end Sys2Proof.Machine
end

