-- ==== Sys2Proof/Decode.lean ====
section
/-! DEFINITION. The decoder and the encoder: CMD40 (R71, R72), TOK8 (R76), TOK16 (R77). -/

namespace Sys2Proof

/-! ## Fields -/

/-- OPC, bits 7:0 of a command word (R71). -/
def opcField (w : CommandWord) : BitVec 8 := w.extractLsb' 0 8

/-- DATA, bits 39:8 of a command word (R71). -/
def dataField (w : CommandWord) : BitVec 32 := w.extractLsb' 8 32

/-- The command word `{DATA, OPC}` (R71). -/
def commandWord (data : BitVec 32) (opc : BitVec 8) : CommandWord := data ++ opc

/-- i, bits 7:5 of a token's first byte in both forms (R78). -/
def tokenIndex (b0 : Byte) : PalIndex := b0.extractLsb' 5 3

/-- F, bit 4 of a token's first byte: set in the long form (R78, R79). -/
def tokenFlag (b0 : Byte) : Bool := b0.getLsbD 4

/-- h of a short form: bits 3:0 (R78). -/
def shortHead (b0 : Byte) : BitVec 4 := b0.extractLsb' 0 4

/-- h of a long form: `{b0[3:0], b1[7:6]}` (R78). -/
def longHead (b0 b1 : Byte) : BitVec 6 := b0.extractLsb' 0 4 ++ b1.extractLsb' 6 2

/-- t of a long form: `b1[5:0]` (R78). -/
def longTail (b1 : Byte) : BitVec 6 := b1.extractLsb' 0 6

/-- TOK8: `{i[2:0], 0b0, h[3:0]}` (R76). -/
def packShort (i : PalIndex) (h : BitVec 4) : Byte := i ++ 0b0#1 ++ h

/-- TOK16: `{i[2:0], 0b1, h[5:0], t[5:0]}` (R77). -/
def longWord (i : PalIndex) (h t : BitVec 6) : BitVec 16 := i ++ 0b1#1 ++ h ++ t

/-- The byte that goes first: `W[15:8]` (R55 (1); PRESUMED with the spec, log entry 14). -/
def highByte (w : BitVec 16) : Byte := w.extractLsb' 8 8

/-- The byte that goes second: `W[7:0]` (R55 (1)). -/
def lowByte (w : BitVec 16) : Byte := w.extractLsb' 0 8

/-! ## The decoder -/

/-- Why the decoder rejects a word. -/
inductive DecodeReject where
  /-- A command whose opcode is one of 0x06..0xFF (R73). -/
  | reservedOpcode (opc : BitVec 8)
  deriving DecidableEq, Repr

/-- The command a host word selects: OPC alone decides, DATA is read by PUSH_PIXEL alone (R71, R72). -/
def decodeCommand (w : CommandWord) : Except DecodeReject Instr :=
  if opcField w = 0x00#8 then .ok .nop
  else if opcField w = 0x01#8 then .ok .start
  else if opcField w = 0x02#8 then .ok (.pushPixel (dataField w))
  else if opcField w = 0x03#8 then .ok .endInput
  else if opcField w = 0x04#8 then .ok .readOut
  else if opcField w = 0x05#8 then .ok .readOutLen
  else .error (.reservedOpcode (opcField w))

/-- The token that starts with `b0`: bit 4 tells the form, and with it whether `b1` belongs to it (R78, R79). -/
def decodeToken (b0 b1 : Byte) : Instr :=
  if tokenFlag b0 then .tokenLong (tokenIndex b0) (longHead b0 b1) (longTail b1)
  else .tokenShort (tokenIndex b0) (shortHead b0)

/-- The decoder. -/
def decode : Fetched → Except DecodeReject Instr
  | .command w => decodeCommand w
  | .token b0 b1 => .ok (decodeToken b0 b1)

/-! ## The encoder -/

/-- The word of an instruction. DATA is 0 where the command ignores it, and so is the byte after a short token. -/
def encode : Instr → Fetched
  | .nop => .command (commandWord 0 0x00)
  | .start => .command (commandWord 0 0x01)
  | .pushPixel p => .command (commandWord p 0x02)
  | .endInput => .command (commandWord 0 0x03)
  | .readOut => .command (commandWord 0 0x04)
  | .readOutLen => .command (commandWord 0 0x05)
  | .tokenShort i h => .token (packShort i h) 0
  | .tokenLong i h t => .token (highByte (longWord i h t)) (lowByte (longWord i h t))

/-! ## The opcode table -/

/-- One row of spec/opcode_table.json: the bits that every word of the row has, and their values. -/
structure TableRow where
  mnemonic : String
  mask : BitVec 40
  pattern : BitVec 40
  deriving DecidableEq, Repr

/-- The row of an instruction. -/
def tableRow : Instr → TableRow
  | .nop => ⟨"NOP", 0xFF, 0x00⟩
  | .start => ⟨"START", 0xFF, 0x01⟩
  | .pushPixel _ => ⟨"PUSH_PIXEL", 0xFF, 0x02⟩
  | .endInput => ⟨"END_INPUT", 0xFF, 0x03⟩
  | .readOut => ⟨"READ_OUT", 0xFF, 0x04⟩
  | .readOutLen => ⟨"READ_OUTLEN", 0xFF, 0x05⟩
  | .tokenShort _ _ => ⟨"TOKEN.SHORT", 0x10, 0x00⟩
  | .tokenLong _ _ _ => ⟨"TOKEN.LONG", 0x1000, 0x1000⟩

/-- An instruction's word as the table numbers its bits: a command is its 40-bit word, a short token its byte, a long
token the 16-bit word W of R77. -/
def tableWord : Instr → BitVec 40
  | .nop => commandWord 0 0x00
  | .start => commandWord 0 0x01
  | .pushPixel p => commandWord p 0x02
  | .endInput => commandWord 0 0x03
  | .readOut => commandWord 0 0x04
  | .readOutLen => commandWord 0 0x05
  | .tokenShort i h => (packShort i h).setWidth 40
  | .tokenLong i h t => (longWord i h t).setWidth 40

/-- The table's numbering of bits, laid out as the hardware stores them: a 16-bit word is a TOK16, its high byte first
(R77); an 8-bit word is a TOK8, but for the six command opcodes, whose DATA is then 0; every other width is a CMD40
word. (DESIGN CHOICE, log entry 13.) -/
def fetchedOfTable (nbits w : Nat) : Fetched :=
  if nbits = 16 then .token (highByte (BitVec.ofNat 16 w)) (lowByte (BitVec.ofNat 16 w))
  else if nbits = 8 ∧ 6 ≤ w then .token (BitVec.ofNat 8 w) 0
  else .command (BitVec.ofNat 40 w)

/-- The instruction that the decoder reads from the word `w` of a table row of `nbits` bits. -/
def decodeTableWord (nbits w : Nat) : Option Instr :=
  match decode (fetchedOfTable nbits w) with
  | .ok i => some i
  | .error _ => none

end Sys2Proof
end

