-- ==== Sys2Proof/Machine/Operands.lean ====
section
/-! DEFINITION. Operand forms: the components of a pixel word (R70), the entries and the bytes an operation reads
(R51 to R53), and the operands of the two token forms (R78). -/

namespace Sys2Proof.Machine

/-- c1, R: bits 31:24 (R70). -/
def red (p : Pixel) : Byte := p.extractLsb' 24 8

/-- c2, G: bits 23:16 (R70). -/
def green (p : Pixel) : Byte := p.extractLsb' 16 8

/-- c3, B: bits 15:8 (R70). -/
def blue (p : Pixel) : Byte := p.extractLsb' 8 8

/-- c4, the ignored component: bits 7:0 (R70). -/
def component4 (p : Pixel) : Byte := p.extractLsb' 0 8

/-- A pixel word from its four components (R70). -/
def pixelWord (c1 c2 c3 c4 : Byte) : Pixel := c1 ++ c2 ++ c3 ++ c4

/-- The three bytes a palette table entry writes, in the order R, G, B; component 4 is not written (R162). -/
def rgbByte (p : Pixel) (k : Nat) : Byte :=
  match k with
  | 0 => red p
  | 1 => green p
  | _ => blue p

/-- PAL[k]: the hard-wired sentinel at 0, a stored entry at 1..7, no entry above (R26). -/
def palAt (s : State) (k : Nat) : Option Pixel :=
  match k with
  | 0 => some Config.sentinel
  | k + 1 => s.pal[k]?

/-- CHUNK_BUF[j] (R51). The buffer has no position above 63; the scan's window never reaches one (R125). -/
def chunkAt (s : State) (j : Nat) : Pixel := (s.chunkBuf[j]?).getD Config.sentinel

/-- A TOKEN.SHORT operand's head length: the count itself, unsigned, without bias (R75, R78). -/
def shortHeadLength (h : BitVec 4) : Nat := h.toNat

/-- A TOKEN.LONG operand's head or tail length: the count itself (R75, R78). -/
def longLength (l : BitVec 6) : Nat := l.toNat

end Sys2Proof.Machine
end

