-- ==== Sys2Proof/Machine/Ops.lean ====
section
/-! DEFINITION. The named operations over the memories and the registers, the end of a command, rejection (R181), the
error entry (R220), and the two ways the outside world acts: issuing an instruction and reset (R240). -/

namespace Sys2Proof.Machine

/-! ## TOKBUF: a byte-indexed memory (R53) -/

/-- The byte at an index; none where nothing has been written (R242, log entry 7). -/
def Memory.read : Memory → Nat → Option Byte
  | [], _ => none
  | (x, y) :: m, a => if x = a then some y else Memory.read m a

/-- Store a byte at an index, keeping the indices strictly rising. -/
def Memory.write : Memory → Nat → Byte → Memory
  | [], a, b => [(a, b)]
  | (x, y) :: m, a, b =>
    if a < x then (a, b) :: (x, y) :: m
    else if a = x then (a, b) :: m
    else (x, y) :: Memory.write m a b

/-- The canonical form: indices strictly rising. (An unlisted index holds no value, so that no entry can equal what an
unlisted index reads as.) -/
def Memory.wf : Memory → Bool
  | [] => true
  | [_] => true
  | c :: d :: m => decide (c.1 < d.1) && Memory.wf (d :: m)

/-! ## Length registers -/

/-- What a 32-bit length register holds after it is given the number `n`: `n` itself where 32 bits hold it (R10), else a
free value (log entry 8). -/
def lengthValue (n : Nat) (s : State) : BitVec 32 :=
  if n < 2 ^ 32 then BitVec.ofNat 32 n else Config.freeLength s.freeCount

/-- How many free values have been used once a length register has been given `n`. -/
def freeCountAfter (n : Nat) (s : State) : Nat :=
  if n < 2 ^ 32 then s.freeCount else s.freeCount + 1

/-- TOK_LEN <- n. -/
def setTokLen (n : Nat) (s : State) : State :=
  { s with tokLen := lengthValue n s, freeCount := freeCountAfter n s }

/-- OUT_LEN <- n. -/
def setOutLen (n : Nat) (s : State) : State :=
  { s with outLen := lengthValue n s, freeCount := freeCountAfter n s }

/-- OUT_RD <- n. -/
def setOutRd (n : Nat) (s : State) : State :=
  { s with outRd := lengthValue n s, freeCount := freeCountAfter n s }

/-- MemWrite(TOKBUF, TOK_LEN, 1, b); TOK_LEN <- TOK_LEN + 1 (R150, R153). -/
def appendByte (s : State) (b : Byte) : State :=
  setTokLen (s.tokLen.toNat + 1) { s with tokBuf := Memory.write s.tokBuf s.tokLen.toNat b }

/-- Whether a buffer of this capacity has room for `n` bytes (R154). -/
def capFits : TokCap → Nat → Bool
  | .unbounded, _ => true
  | .bytes cap, n => decide (n ≤ cap)

/-! ## CHUNK_BUF and the registry -/

/-- CHUNK_BUF[FILL] <- p; FILL <- FILL + 1 (R51). -/
def storePixel (p : Pixel) (s : State) : State :=
  { s with chunkBuf := s.chunkBuf.setIfInBounds s.fill.toNat p, fill := s.fill + 1 }

/-- CHUNK_BUF with the sentinel at every position from `fill` on (R186). -/
def paddedBuffer (fill : Nat) (buf : Vector Pixel 64) : Vector Pixel 64 :=
  buf.mapIdx fun j p => if fill ≤ j then Config.sentinel else p

/-- CHUNK_BUF[j] <- the sentinel for j in FILL..63; FILL <- 64 (R186). -/
def padChunk (s : State) : State :=
  { s with chunkBuf := paddedBuffer s.fill.toNat s.chunkBuf, fill := 64#7 }

/-- PAL[k] <- p. There are no writes to PAL[0] (R26). -/
def writePal (k : Nat) (p : Pixel) (s : State) : State :=
  { s with pal := if k = 0 then s.pal else s.pal.setIfInBounds (k - 1) p }

/-! ## How an operation ends -/

/-- An internal operation runs on, with its answer, or raises an error at a point of its pseudocode; the state is the
one at that point (R11, R220). -/
inductive OpResult (α : Type) where
  | ok (a : α) (s : State)
  | raised (c : ErrCode) (s : State)
  deriving DecidableEq, Repr

/-- Go on with `f` unless an error was raised: the first error ends the command (R218). -/
def OpResult.andThen {α β : Type} (x : OpResult α) (f : α → State → OpResult β) : OpResult β :=
  match x with
  | .ok a s => f a s
  | .raised c s => .raised c s

/-- The state at the end of an operation, before any error entry. -/
def OpResult.final {α : Type} : OpResult α → State
  | .ok _ s => s
  | .raised _ s => s

/-- RESULT <- v. -/
def answer (v : ResultWord) (s : State) : State := { s with result := v }

/-- `return STATUS`: the status after everything the command did (R72). -/
def answerStatus (s : State) : State := answer (status s) s

/-- TAKING AN ERROR, ERROR_ENTRY(c) (R220): record the code, enter ERROR, discard the tokens, the output and the current
chunk, and answer STATUS. PAL, PAL_SIZE, CHUNKS and REJ stay. The way back is START (`openOperation`) or reset (R222). -/
def errorEntry (c : ErrCode) (s : State) : State :=
  answerStatus { s with
    err := c
    state := .error
    tokLen := 0
    outLen := 0
    outRd := 0
    fill := 0 }

/-- LEAVING AN ERROR, and opening an operation from every STATE: the effect of START before its answer (R184, R222). -/
def openOperation (s : State) : State :=
  { s with
    palSize := 1
    fill := 0
    tokLen := 0
    outLen := 0
    outRd := 0
    chunks := 0
    err := .none
    rej := false
    state := .accepting }

/-- REJ <- 1 (R181). -/
def setRej (s : State) : State := { s with rej := true }

/-- A rejected command: REJ is set, nothing else changes, and the answer is STATUS after that (R181). -/
def reject (s : State) : State := answerStatus (setRej s)

/-! ## The outside world -/

/-- The host issues an instruction: it leaves the port, and a command's fields stand in CMD and DATA (R36, R71). -/
def takeIssue (f : Fetched) (rest : List PortEvent) (s : State) : State :=
  match f with
  | .command w => { s with port := rest, cmd := opcField w, data := dataField w }
  | .token _ _ => { s with port := rest }

/-- The external reset (R240): every element takes its value after reset (R38). The instance's parameters stay, the
world goes on with what it does next, and no free value is used twice (log entry 11). -/
def takeReset (rest : List PortEvent) (s : State) : State :=
  { State.reset with params := s.params, freeCount := s.freeCount, port := rest }

end Sys2Proof.Machine
end

