-- ==== Sys2Proof/Machine/Packer.lean ====
section
/-! DEFINITION. The token serializer: EMIT_TOKEN (R150 to R155). -/

namespace Sys2Proof.Machine

/-- Whether a token of these lengths takes the short form (R151). -/
def usesShortForm (h t : Nat) : Bool := decide (t = 0 ∧ h < 16)

/-- The bytes of TOK(i, h, t), first byte first (R151, R152). -/
def packToken (i : PalIndex) (h t : Nat) : List Byte :=
  if usesShortForm h t then [packShort i (BitVec.ofNat 4 h)]
  else
    [highByte (longWord i (BitVec.ofNat 6 h) (BitVec.ofNat 6 t)),
     lowByte (longWord i (BitVec.ofNat 6 h) (BitVec.ofNat 6 t))]

/-- Whether the lengths fit the fields of a token (R155). -/
def lengthsFit (h t : Nat) : Bool := decide (1 ≤ h ∧ h ≤ 63 ∧ t ≤ 63)

/-- Append the bytes of one token, first byte first (R153). -/
def appendBytes (bytes : List Byte) (s : State) : State := bytes.foldl appendByte s

/-- EMIT_TOKEN(i, h, t): the length check comes first, then the capacity check, before any byte is written
(R150, R154, R155, R218). -/
def emitToken (i : PalIndex) (h t : Nat) (s : State) : OpResult Unit :=
  if lengthsFit h t then
    if capFits s.params.tokCap (s.tokLen.toNat + (packToken i h t).length) then
      .ok () (appendBytes (packToken i h t) s)
    else .raised .outputOverflow s
  else .raised .lengthAssert s

end Sys2Proof.Machine
end

