-- ==== Sys2Proof/Machine/Registry.lean ====
section
/-! DEFINITION. The palette registry: LOOKUP_OR_INSERT (R101 to R104) and FINALIZE_PALETTE (R107). -/

namespace Sys2Proof.Machine

/-- The lowest k in 0..PAL_SIZE-1 with PAL[k] = p, compared over all 32 bits; entries at k >= PAL_SIZE take no part
(R102, D17). -/
def findEntry (p : Pixel) (s : State) : Option Nat :=
  (List.range s.palSize.toNat).find? fun k => decide (palAt s k = some p)

/-- PAL[PAL_SIZE] <- p; PAL_SIZE <- PAL_SIZE + 1 (R103). -/
def insertEntry (p : Pixel) (s : State) : State :=
  { writePal s.palSize.toNat p s with palSize := s.palSize + 1 }

/-- LOOKUP_OR_INSERT(p): a hit changes nothing (R102); a miss appends the pixel where the new index is at most 7 (R103),
and else raises PALETTE_FULL with the registry as it was (R104). -/
def lookupOrInsert (p : Pixel) (s : State) : OpResult PalIndex :=
  match findEntry p s with
  | some k => .ok (BitVec.ofNat 3 k) s
  | none =>
    if 8 ≤ s.palSize.toNat then .raised .paletteFull s
    else .ok (BitVec.ofNat 3 s.palSize.toNat) (insertEntry p s)

/-- FINALIZE_PALETTE: output index k is in-memory index k + 1 (R107). -/
def tableEntry (s : State) (k : Nat) : Option Pixel :=
  if k < realColours s then palAt s (k + 1) else none

end Sys2Proof.Machine
end

