-- ==== Sys2Proof/Machine/Scan.lean ====
section
/-! DEFINITION. The chunk encoder: ENCODE_CHUNK (R120 to R128). The two inner loops work on positions as natural numbers
(R10); the cursor registers hold them between scan steps. -/

namespace Sys2Proof.Machine

/-- Step b: the tail cursor after the tail run. It goes down while it is not at `head` and the pixel under it is the
baseline; the test against `head` comes first (R123, C5). -/
def tailRun (pixel : Nat → Pixel) (baseline : Pixel) (head : Nat) : Nat → Nat
  | 0 => 0
  | t + 1 => if head ≠ t + 1 ∧ pixel (t + 1) = baseline then tailRun pixel baseline head t else t + 1

/-- Step c: the head cursor after the head run. It goes up while it is at most `tail` and the pixel under it is the
baseline (R124). The first number bounds the loop. -/
def headRun (pixel : Nat → Pixel) (baseline : Pixel) (tail : Nat) : Nat → Nat → Nat
  | 0, h => h
  | n + 1, h => if h ≤ tail ∧ pixel h = baseline then headRun pixel baseline tail n (h + 1) else h

/-- The tail cursor that steps b leaves when a scan step starts at `head` and `tail` (R123). -/
def tailAfter (pixel : Nat → Pixel) (head tail : Nat) : Nat := tailRun pixel (pixel head) head tail

/-- The head cursor that step c leaves when a scan step starts at `head` and `tail` (R124). A head run is never longer
than a chunk. -/
def headAfter (pixel : Nat → Pixel) (head tail : Nat) : Nat :=
  headRun pixel (pixel head) (tailAfter pixel head tail) Config.chunk head

/-- HEAD <- h; TAIL <- t. -/
def setCursors (h t : Nat) (s : State) : State :=
  { s with head := BitVec.ofNat 7 h, tail := BitVec.ofNat 6 t }

/-- One scan step: the baseline's index, the tail run, the head run, one token (R122 to R126). -/
def scanStep (s : State) : OpResult Unit :=
  (lookupOrInsert (chunkAt s s.head.toNat) s).andThen fun i s1 =>
    let h0 := s.head.toNat
    let t0 := s.tail.toNat
    let t1 := tailAfter (chunkAt s) h0 t0
    let h1 := headAfter (chunkAt s) h0 t0
    emitToken i (h1 - h0) (t0 - t1) (setCursors h1 t1 s1)

/-- The scan repeats its step while HEAD <= TAIL (R121). The number bounds the loop. -/
def scanLoop : Nat → State → OpResult Unit
  | 0, s => .ok () s
  | n + 1, s =>
    if s.head.toNat ≤ s.tail.toNat then (scanStep s).andThen fun _ s1 => scanLoop n s1 else .ok () s

/-- Chunk completion: FILL <- 0; CHUNKS <- (CHUNKS + 1) mod 2^14 (R128). -/
def completeChunk (s : State) : State := { s with fill := 0, chunks := s.chunks + 1 }

/-- ENCODE_CHUNK (R120). A scan has at most 64 steps (R127). -/
def encodeChunk (s : State) : OpResult Unit :=
  (scanLoop Config.chunk (setCursors 0 63 s)).andThen fun _ s1 => .ok () (completeChunk s1)

end Sys2Proof.Machine
end

