-- ==== Sys2Proof/Machine/Stream.lean ====
section
/-! DEFINITION. The stream serializer and the output view: SERIALIZE_STREAM (R160 to R164) and OUT (R54). -/

namespace Sys2Proof.Machine

/-- The offset of the token stream in the output: 1 + 3n (R160). -/
def tokenOffset (s : State) : Nat := 1 + 3 * realColours s

/-- The number of bytes the output has: 1 + 3 * (PAL_SIZE - 1) + TOK_LEN (R164). -/
def outputLength (s : State) : Nat := tokenOffset s + s.tokLen.toNat

/-- OUT[k]: the header byte (R161), the palette table, three bytes an entry (R162), then TOKBUF[0..TOK_LEN-1] (R163). None
where OUT has no byte that holds a value. -/
def outByte (s : State) (k : Nat) : Option Byte :=
  if k = 0 then some (BitVec.ofNat 8 (realColours s))
  else if k < tokenOffset s then (tableEntry s ((k - 1) / 3)).map fun p => rgbByte p ((k - 1) % 3)
  else if k < outputLength s then Memory.read s.tokBuf (k - tokenOffset s)
  else none

/-- OUT[0..OUT_LEN-1] as one byte sequence, where every byte of it holds a value (R54). -/
def outView (s : State) : Option (List Byte) := (List.range s.outLen.toNat).mapM (outByte s)

/-- SERIALIZE_STREAM: OUT is a view of the registry and TOKBUF, so that what it sets is OUT_LEN (R160, R164). -/
def serializeStream (s : State) : State := setOutLen (outputLength s) s

/-- The successful end of an operation: serialize, OUT_RD <- 0, STATE <- DONE (R186). -/
def finishOperation (s : State) : State := { serializeStream s with outRd := 0, state := .done }

end Sys2Proof.Machine
end

