-- ==== Sys2Proof/Machine/Commands.lean ====
section
/-! DEFINITION. The meanings of the six host commands (R183 to R188) and of the reserved opcodes (R189). -/

namespace Sys2Proof.Machine

/-- How a command that ran an internal operation ends: it answers STATUS, or takes the error entry (R180, R220). -/
def endCommand (x : OpResult Unit) : State :=
  match x with
  | .ok _ s => answerStatus s
  | .raised c s => errorEntry c s

/-- NOP (R183). -/
def execNop (s : State) : Host.Outcome State Fault Refusal := .next (answerStatus s)

/-- START (R184). -/
def execStart (s : State) : Host.Outcome State Fault Refusal := .next (answerStatus (openOperation s))

/-- The scan that the pixel triggers if it is the 64th of its chunk (R185). -/
def scanIfFull (s : State) : OpResult Unit := if s.fill = 64#7 then encodeChunk s else .ok () s

/-- PUSH_PIXEL p (R185). At a FILL above 63 there is no entry to write (log entry 12). -/
def execPushPixel (p : Pixel) (s : State) : Host.Outcome State Fault Refusal :=
  if s.state ≠ .accepting then .next (reject s)
  else if 64 ≤ s.fill.toNat then .fault .chunkBufRange
  else .next (endCommand (scanIfFull (storePixel p s)))

/-- The partial final chunk of END_INPUT: MALFORMED_INPUT under REJECT, else the padded chunk's scan; nothing where FILL
is 0 (R186). -/
def finalChunk (s : State) : OpResult Unit :=
  if s.fill = 0#7 then .ok () s
  else match s.params.padPolicy with
    | .reject => .raised .malformedInput s
    | .padSentinel => encodeChunk (padChunk s)

/-- END_INPUT (R186). -/
def execEndInput (s : State) : Host.Outcome State Fault Refusal :=
  if s.state ≠ .accepting then .next (reject s)
  else .next (endCommand ((finalChunk s).andThen fun _ s1 => .ok () (finishOperation s1)))

/-- READ_OUT (R187). -/
def execReadOut (s : State) : Host.Outcome State Fault Refusal :=
  if s.state ≠ .done then .next (answer Config.noData (setRej s))
  else if s.outRd = s.outLen then .next (answer Config.noData s)
  else match outByte s s.outRd.toNat with
    | some b => .next (answer (b.setWidth 32) (setOutRd (s.outRd.toNat + 1) s))
    | none => .fault .outNoValue

/-- READ_OUTLEN (R188). -/
def execReadOutLen (s : State) : Host.Outcome State Fault Refusal := .next (answer s.outLen s)

/-- A reserved opcode: a rejected command (R189). -/
def execReserved (s : State) : Host.Outcome State Fault Refusal := .next (reject s)

end Sys2Proof.Machine
end

