-- ==== Sys2Proof/Machine/Tokens.lean ====
section
/-! DEFINITION. The meanings of the two token forms: EMIT_TOKEN called with the token's operands (R150). -/

namespace Sys2Proof.Machine

/-- How a directly called EMIT_TOKEN ends: it returns nothing, or its error takes the error entry (R150, R220). -/
def endToken (x : OpResult Unit) : State :=
  match x with
  | .ok _ s => s
  | .raised c s => errorEntry c s

/-- TOKEN.SHORT: EMIT_TOKEN(i, h, 0) (R150, R151). -/
def execTokenShort (i : PalIndex) (h : BitVec 4) (s : State) : Host.Outcome State Fault Refusal :=
  .next (endToken (emitToken i (shortHeadLength h) 0 s))

/-- TOKEN.LONG: EMIT_TOKEN(i, h, t) (R150, R152). With t = 0 and h < 16 it appends the short form, which is the only form
of such a token (R151, log entry 4). -/
def execTokenLong (i : PalIndex) (h t : BitVec 6) (s : State) : Host.Outcome State Fault Refusal :=
  .next (endToken (emitToken i (longLength h) (longLength t) s))

end Sys2Proof.Machine
end

