-- ==== Sys2Proof/Machine/Dispatch.lean ====
section
/-! DEFINITION. The dispatch: one arm per constructor of Instr, each a direct call of the instruction's meaning. -/

namespace Sys2Proof.Machine

def exec (i : Instr) (s : State) : Host.Outcome State Fault Refusal :=
  match i with
  | .nop => Sys2Proof.Machine.execNop s
  | .start => Sys2Proof.Machine.execStart s
  | .pushPixel p => Sys2Proof.Machine.execPushPixel p s
  | .endInput => Sys2Proof.Machine.execEndInput s
  | .readOut => Sys2Proof.Machine.execReadOut s
  | .readOutLen => Sys2Proof.Machine.execReadOutLen s
  | .tokenShort k h => Sys2Proof.Machine.execTokenShort k h s
  | .tokenLong k h t => Sys2Proof.Machine.execTokenLong k h t s

end Sys2Proof.Machine
end

