-- ==== Sys2Proof/Machine/Step.lean ====
section
/-! DEFINITION. One step of the machine: what the outside world does next, and what the block makes of it (R180). -/

namespace Sys2Proof.Machine

/-- Run what was fetched: a decoded instruction by `exec`, a reserved opcode by R189. -/
def runFetched (f : Fetched) (s : State) : Host.Outcome State Fault Refusal :=
  match decode f with
  | .ok i => exec i s
  | .error (.reservedOpcode _) => execReserved s

/-- One step. With nothing on the port the block waits (R241); a reset is taken between commands (R240); a command is one
atomic step, whole (R57, R180). -/
def step (s : State) : Host.Outcome State Fault Refusal :=
  match s.port with
  | [] => .next s
  | .reset :: rest => .next (takeReset rest s)
  | .issue f :: rest => runFetched f (takeIssue f rest s)

/-- The state whose next step runs the word `w` of an opcode-table row of `nbits` bits: the word stands first on the
port, before whatever the port held (log entries 1 and 13). -/
def State.withFetchWord (s : State) (nbits w : Nat) : State :=
  { s with port := .issue (fetchedOfTable nbits w) :: s.port }

end Sys2Proof.Machine
end

