-- ==== Sys2Proof/Machine/Pseudo.lean ====
section
/-! DEFINITION. Host programs: the pseudo-commands of R83, the command sequence of one encode operation (R190), and runs
of the machine. -/

namespace Sys2Proof.Machine

/-- The event of the host issuing one instruction. -/
def issueOf (i : Instr) : PortEvent := .issue (encode i)

/-- `PUSHN p, n` (R83). -/
def pushN (p : Pixel) (n : Nat) : List PortEvent := List.replicate n (issueOf (.pushPixel p))

/-- `PUSHCHUNK p` (R83). -/
def pushChunk (p : Pixel) : List PortEvent := pushN p Config.chunk

/-- `READALL` where READ_OUTLEN answers `n` (R83). -/
def readAll (n : Nat) : List PortEvent := issueOf .readOutLen :: List.replicate n (issueOf .readOut)

/-- START, PUSH_PIXEL for every pixel in stream order, END_INPUT (R190). -/
def encodeOperation (pixels : List Pixel) : List PortEvent :=
  issueOf .start :: (pixels.map fun p => issueOf (.pushPixel p)) ++ [issueOf .endInput]

/-- `n` steps of the machine, stopping at the first fault or refusal. -/
def run (n : Nat) (s : State) : Host.Outcome State Fault Refusal := Host.Core.run Sys2Proof.core n s

end Sys2Proof.Machine
end

