-- ==== Sys2Proof/Machine/RefDecoder.lean ====
section
/-! DEFINITION. The reference decoder DECODE (R165 to R168). It is no hardware: it is the inverse that the round trip of
R169 is stated against. -/

namespace Sys2Proof.Machine

/-- Why DECODE fails (R166 to R168). -/
inductive StreamError where
  /-- The stream ends inside its header, its palette, a token or a chunk. -/
  | truncated
  /-- The header byte is above 7. -/
  | badPaletteSize
  /-- A token has h = 0. -/
  | zeroHead
  /-- A token's index is above the palette size. -/
  | badIndex
  /-- A token is longer than the window left in its chunk. -/
  | overrun
  deriving DecidableEq, Repr

/-- What DECODE reads from the header and the palette (R166). `c4 k` is the component 4 it gives the real colour of
index k: DECODE_C4 for every k, or any values at all where DECODE_C4 is ANY (R9, log entry 18). -/
structure StreamPalette where
  size : Nat
  colours : List Pixel
  deriving DecidableEq, Repr

/-- The entries of the palette table, index k of the first entry given (R166). -/
def readTable (c4 : Nat → Byte) : Nat → Nat → List Byte → Except StreamError (List Pixel × List Byte)
  | 0, _, bs => .ok ([], bs)
  | n + 1, k, r :: g :: b :: bs =>
    match readTable c4 n (k + 1) bs with
    | .ok (ps, rest) => .ok (pixelWord r g b (c4 k) :: ps, rest)
    | .error e => .error e
  | _ + 1, _, _ => .error .truncated

/-- The header byte and the palette table; colour 0 is the sentinel (R166). -/
def readHeader (c4 : Nat → Byte) : List Byte → Except StreamError (StreamPalette × List Byte)
  | [] => .error .truncated
  | n :: bs =>
    if 7 < n.toNat then .error .badPaletteSize
    else match readTable c4 n.toNat 1 bs with
      | .ok (ps, rest) => .ok (⟨n.toNat, Config.sentinel :: ps⟩, rest)
      | .error e => .error e

/-- One token (i, h, t) and the bytes after it (R78, R166). -/
def readToken : List Byte → Except StreamError ((Nat × Nat × Nat) × List Byte)
  | [] => .error .truncated
  | b0 :: bs =>
    if tokenFlag b0 then
      match bs with
      | [] => .error .truncated
      | b1 :: rest => .ok (((tokenIndex b0).toNat, (longHead b0 b1).toNat, (longTail b1).toNat), rest)
    else .ok (((tokenIndex b0).toNat, (shortHead b0).toNat, 0), bs)

/-- DECODE_CHUNK for a window of `w` positions: the pixels of the window and the bytes after its tokens (R167). The head
run comes first, the tail run last, and the window between them is what the following tokens fill. The first number
bounds the loop: every token takes at least one position. -/
def decodeWindow (pal : StreamPalette) : Nat → Nat → List Byte → Except StreamError (List Pixel × List Byte)
  | _, 0, bs => .ok ([], bs)
  | 0, _ + 1, _ => .error .overrun
  | n + 1, w + 1, bs =>
    match readToken bs with
    | .error e => .error e
    | .ok ((i, h, t), rest) =>
      if h = 0 then .error .zeroHead
      else if pal.size < i then .error .badIndex
      else if w + 1 < h + t then .error .overrun
      else match decodeWindow pal n (w + 1 - (h + t)) rest with
        | .error e => .error e
        | .ok (mid, rest') =>
          let colour := (pal.colours[i]?).getD Config.sentinel
          .ok (List.replicate h colour ++ mid ++ List.replicate t colour, rest')

/-- Chunks until the stream ends (R166). The number bounds the loop: every chunk takes at least one byte. -/
def decodeChunks (pal : StreamPalette) : Nat → List Byte → Except StreamError (List Pixel)
  | _, [] => .ok []
  | 0, _ :: _ => .error .truncated
  | n + 1, b :: bs =>
    match decodeWindow pal Config.chunk Config.chunk (b :: bs) with
    | .error e => .error e
    | .ok (px, rest) =>
      match decodeChunks pal n rest with
      | .error e => .error e
      | .ok more => .ok (px ++ more)

/-- DECODE(B) (R166). -/
def refDecode (c4 : Nat → Byte) (bs : List Byte) : Except StreamError (List Pixel) :=
  match readHeader c4 bs with
  | .error e => .error e
  | .ok (pal, rest) => decodeChunks pal rest.length rest

end Sys2Proof.Machine
end

