-- ==== Sys2Proof/WellFormed.lean ====
section
/-! DEFINITION. Which instructions and parameters are well formed. Every field of an instruction has its width by its
type, so what is left to check is which token encodings an encoder emits (R81) and which capacities exist (R9). -/

namespace Sys2Proof

/-- R81 (1), (2) and (4): every token has a head length of at least 1. -/
def headNonzero : Instr → Bool
  | .nop | .start | .pushPixel _ | .endInput | .readOut | .readOutLen => true
  | .tokenShort _ h => h != 0
  | .tokenLong _ h _ => h != 0

/-- R81 (3): the long form is used only where the short form cannot be (R80). -/
def formCanonical : Instr → Bool
  | .nop | .start | .pushPixel _ | .endInput | .readOut | .readOutLen => true
  | .tokenShort _ _ => true
  | .tokenLong _ h t => t != 0 || decide (16 ≤ h.toNat)

/-- A well-formed instruction: a command, or a token that the encoder can emit (R81). -/
def WellFormed (i : Instr) : Bool := headNonzero i && formCanonical i

/-- A parameter setting the spec allows: TOK_CAP is at least 64, or UNBOUNDED (R9). -/
def Params.legal (p : Params) : Bool :=
  match p.tokCap with
  | .unbounded => true
  | .bytes n => decide (64 ≤ n)

end Sys2Proof
end

