-- ==== Sys2Proof/Safety.lean ====
section
/-! DEFINITION. What the claims about the block are stated in: the invariant of its legal states, the part of a state
that an operation can depend on, the runs a chunk consists of, and the pixels an operation encodes. -/

namespace Sys2Proof.Machine

/-! ## Legality -/

/-- The legality table of R182: whether a command executes in a STATE. The token forms are no commands. -/
def legalIn : Instr → OpState → Bool
  | .nop, _ => true
  | .start, _ => true
  | .pushPixel _, q => decide (q = .accepting)
  | .endInput, q => decide (q = .accepting)
  | .readOut, q => decide (q = .done)
  | .readOutLen, _ => true
  | .tokenShort _ _, _ => true
  | .tokenLong _ _ _, _ => true

/-- Whether an instruction is a host command (R72). -/
def isCommand : Instr → Bool
  | .nop | .start | .pushPixel _ | .endInput | .readOut | .readOutLen => true
  | .tokenShort _ _ | .tokenLong _ _ _ => false

/-- Whether an event can happen at the block's port: a host command or reset. A token word cannot (log entry 3). -/
def atPort : PortEvent → Bool
  | .reset => true
  | .issue (.command _) => true
  | .issue (.token _ _) => false

/-! ## The invariant of legal states -/

/-- The legal states of the block. -/
structure Inv (s : State) : Prop where
  /-- The instance's capacity is one the spec allows (R9). -/
  params : s.params.legal = true
  /-- The outside world uses the command port and reset only (R50, log entry 3). -/
  port : ∀ e ∈ s.port, atPort e = true
  /-- R28 (4): the registry has 1 to 8 entries. -/
  palSize : 1 ≤ s.palSize.toNat ∧ s.palSize.toNat ≤ 8
  /-- R28 (2), and with R28 (1) also R28 (3): the entries are pairwise distinct. -/
  distinct : ∀ j k, j < k → k < s.palSize.toNat → palAt s j ≠ palAt s k
  /-- FILL is at most 63 between commands (R31). -/
  fill : s.fill.toNat ≤ 63
  /-- Only an open operation holds pixels of a chunk (R38, R186, R220). -/
  fillClosed : s.state ≠ .accepting → s.fill = 0
  /-- ERR is nonzero exactly when STATE = ERROR (R24). -/
  err : s.err ≠ .none ↔ s.state = .error
  /-- The error entry has discarded the tokens (R220). -/
  errorEmpty : s.state = .error → s.tokLen = 0
  /-- OUT_LEN and OUT_RD are 0 outside DONE (R34). -/
  outClosed : s.state ≠ .done → s.outLen = 0 ∧ s.outRd = 0
  /-- In DONE, OUT_LEN is the length of the output, where 32 bits hold it (R34, R164). -/
  outLen : s.state = .done → outputLength s < 2 ^ 32 → s.outLen.toNat = outputLength s
  /-- OUT_RD is at most OUT_LEN (R34). -/
  outRd : s.outRd.toNat ≤ s.outLen.toNat
  /-- TOK_LEN is at most TOK_CAP (R33). -/
  tokLen : capFits s.params.tokCap s.tokLen.toNat = true
  /-- Every byte of TOKBUF below TOK_LEN holds a value (R33, R242). -/
  tokBytes : ∀ a, a < s.tokLen.toNat → (Memory.read s.tokBuf a).isSome = true
  /-- TOKBUF is in its canonical form, which is the model's own (log entry 20). -/
  tokForm : Memory.wf s.tokBuf = true

/-! ## What a step can depend on -/

/-- Two states that agree on everything but what holds no value: PAL[PAL_SIZE..7], CHUNK_BUF[FILL..63],
TOKBUF[TOK_LEN..], HEAD and TAIL (R26, R30, R33, R29), and CMD, DATA and RESULT, which hold no value between commands
(R36). -/
structure SameLive (s t : State) : Prop where
  params : s.params = t.params
  state : s.state = t.state
  err : s.err = t.err
  rej : s.rej = t.rej
  palSize : s.palSize = t.palSize
  pal : ∀ k, k < s.palSize.toNat → palAt s k = palAt t k
  fill : s.fill = t.fill
  chunkBuf : ∀ j, j < s.fill.toNat → chunkAt s j = chunkAt t j
  tokLen : s.tokLen = t.tokLen
  tokBuf : ∀ a, a < s.tokLen.toNat → Memory.read s.tokBuf a = Memory.read t.tokBuf a
  outLen : s.outLen = t.outLen
  outRd : s.outRd = t.outRd
  chunks : s.chunks = t.chunks
  freeCount : s.freeCount = t.freeCount
  port : s.port = t.port

/-! ## The runs of a chunk -/

/-- One scan step's runs: the baseline, headLength and tailLength (R13, R122 to R124). -/
structure Run where
  baseline : Pixel
  headLength : Nat
  tailLength : Nat
  deriving DecidableEq, Repr

/-- The runs of the window from `head` to `tail`, in scan order. The first number bounds the loop. -/
def windowRuns (pixel : Nat → Pixel) : Nat → Nat → Nat → List Run
  | 0, _, _ => []
  | n + 1, head, tail =>
    if head ≤ tail then
      ⟨pixel head, headAfter pixel head tail - head, tail - tailAfter pixel head tail⟩
        :: windowRuns pixel n (headAfter pixel head tail) (tailAfter pixel head tail)
    else []

/-- The runs of a whole chunk (R120). -/
def chunkRuns (pixel : Nat → Pixel) : List Run := windowRuns pixel Config.chunk 0 63

/-- The pixels a run consumes (R127). -/
def Run.consumed (r : Run) : Nat := r.headLength + r.tailLength

/-- The pixels that runs describe, put back in place: each head run at the front of its window, each tail run at the back,
what the later runs describe between them (R127, R133). -/
def runPixels : List Run → List Pixel
  | [] => []
  | r :: rs => List.replicate r.headLength r.baseline ++ runPixels rs ++ List.replicate r.tailLength r.baseline

/-- The token bytes of a run, its baseline's index read from the registry of `s`. -/
def runBytes (s : State) (r : Run) : List Byte :=
  packToken (BitVec.ofNat 3 ((findEntry r.baseline s).getD 0)) r.headLength r.tailLength

/-- What a chunk scan that starts at `s` leaves as it was in the state `t` it ends in, before any error entry: every
element but FILL, CHUNKS, the cursors, the registry's new entries and the token bytes appended between the two values of
TOK_LEN (R120). -/
structure ScanFrame (s t : State) : Prop where
  params : t.params = s.params
  state : t.state = s.state
  err : t.err = s.err
  rej : t.rej = s.rej
  chunkBuf : t.chunkBuf = s.chunkBuf
  outLen : t.outLen = s.outLen
  outRd : t.outRd = s.outRd
  cmd : t.cmd = s.cmd
  data : t.data = s.data
  result : t.result = s.result
  port : t.port = s.port
  palSize : s.palSize.toNat ≤ t.palSize.toNat
  pal : ∀ k, k < s.palSize.toNat ∨ t.palSize.toNat ≤ k → palAt t k = palAt s k
  tokBuf : ∀ a, a < s.tokLen.toNat ∨ t.tokLen.toNat ≤ a → Memory.read t.tokBuf a = Memory.read s.tokBuf a

/-! ## The pixels of an operation -/

/-- The pixels an operation scans: those pushed, and the sentinel padding of a partial final chunk (R169, R186). -/
def scannedPixels (pixels : List Pixel) : List Pixel :=
  pixels ++ List.replicate ((Config.chunk - pixels.length % Config.chunk) % Config.chunk) Config.sentinel

/-- The distinct real colours of a pixel stream in the order of their first occurrence (R105). -/
def firstSeen (pixels : List Pixel) : List Pixel :=
  pixels.foldl (fun seen p => if p = Config.sentinel ∨ p ∈ seen then seen else seen ++ [p]) []

/-- What the round trip gives back of one pixel: a sentinel as itself, a real colour with its R, G and B and a component
4 of the decoder's (R169). -/
def decodesTo (c4 : Nat → Byte) (p q : Pixel) : Prop :=
  if p = Config.sentinel then q = Config.sentinel
  else red q = red p ∧ green q = green p ∧ blue q = blue p ∧ ∃ k, 1 ≤ k ∧ k ≤ 7 ∧ component4 q = c4 k

/-- The tokens in `bytes`, whole and each one that DECODE accepts under a palette of `size` colours, take the first number
of positions of a chunk's window down to the second (R167, R168). -/
inductive TakesTokens (size : Nat) : Nat → List Byte → Nat → Prop where
  | none (w : Nat) : TakesTokens size w [] w
  | token {w left i h t : Nat} {b bytes : List Byte} (read : readToken b = .ok ((i, h, t), [])) (head : h ≠ 0)
      (index : i ≤ size) (fits : h + t ≤ w) (rest : TakesTokens size (w - (h + t)) bytes left) :
      TakesTokens size w (b ++ bytes) left

/-- An outcome with DATA left out of account (R71). -/
def withoutData : Host.Outcome State Fault Refusal → Host.Outcome State Fault Refusal
  | .next t => .next { t with data := 0 }
  | .fault r => .fault r
  | .refused r => .refused r

/-- Whether a presented word has every bit that the instruction gives a meaning (R71, R76, R77). -/
def sameMeaningfulBits : Instr → Fetched → Prop
  | .nop, .command w => opcField w = 0x00
  | .start, .command w => opcField w = 0x01
  | .pushPixel p, .command w => w = commandWord p 0x02
  | .endInput, .command w => opcField w = 0x03
  | .readOut, .command w => opcField w = 0x04
  | .readOutLen, .command w => opcField w = 0x05
  | .tokenShort i h, .token b0 _ => b0 = packShort i h
  | .tokenLong i h t, .token b0 b1 => b0 ++ b1 = longWord i h t
  | .nop, .token _ _ => False
  | .start, .token _ _ => False
  | .pushPixel _, .token _ _ => False
  | .endInput, .token _ _ => False
  | .readOut, .token _ _ => False
  | .readOutLen, .token _ _ => False
  | .tokenShort _ _, .command _ => False
  | .tokenLong _ _ _, .command _ => False

end Sys2Proof.Machine
end

