-- ==== Sys2Proof/Certificates/Slice0/Obligations.lean ====
section
/-! DEFINITION. The statements for the provers. -/

open Sys2Proof Sys2Proof.Machine

/-! ## Encodings -/

/-- Words written out from the encodings of R71, R72, R76 and R77 decode to what they stand for. -/
def Obligations.SpecWordsDecode : Prop :=
  decode (.command 0x0000000000#40) = .ok .nop ∧
  decode (.command 0x0000000001#40) = .ok .start ∧
  decode (.command 0x0A141E0002#40) = .ok (.pushPixel 0x0A141E00#32) ∧
  decode (.command 0x0000000003#40) = .ok .endInput ∧
  decode (.command 0xFFFFFFFF04#40) = .ok .readOut ∧
  decode (.command 0x1234567805#40) = .ok .readOutLen ∧
  decode (.command 0x1234567842#40) = .error (.reservedOpcode 0x42#8) ∧
  decode (.token 0x2F#8 0x00#8) = .ok (.tokenShort 1#3 15#4) ∧
  decode (.token 0xB2#8 0x94#8) = .ok (.tokenLong 5#3 10#6 20#6)

/-- Decode and encode agree in both directions, for every instruction with every operand: the word encoded for an
instruction decodes to it, and a word that decodes to an instruction has every bit that the instruction gives a meaning.
(Log entry 1: the forms in which a word is presented are the model's.) -/
def Obligations.DecodeEncodeAgree : Prop :=
  (∀ i : Instr, decode (encode i) = .ok i) ∧
  (∀ (f : Fetched) (i : Instr), decode f = .ok i → sameMeaningfulBits i f)

/-- R72 and R73: OPC alone selects the command; the opcodes 0x00 to 0x05 are the six commands, PUSH_PIXEL with the whole
of DATA as its pixel, and all others are reserved. -/
def Obligations.OpcodeSelectsCommand : Prop :=
  ∀ w : CommandWord,
    (w.extractLsb' 0 8 = 0x00#8 → decode (.command w) = .ok .nop) ∧
    (w.extractLsb' 0 8 = 0x01#8 → decode (.command w) = .ok .start) ∧
    (w.extractLsb' 0 8 = 0x02#8 → decode (.command w) = .ok (.pushPixel (w.extractLsb' 8 32))) ∧
    (w.extractLsb' 0 8 = 0x03#8 → decode (.command w) = .ok .endInput) ∧
    (w.extractLsb' 0 8 = 0x04#8 → decode (.command w) = .ok .readOut) ∧
    (w.extractLsb' 0 8 = 0x05#8 → decode (.command w) = .ok .readOutLen) ∧
    (6 ≤ (w.extractLsb' 0 8).toNat → decode (.command w) = .error (.reservedOpcode (w.extractLsb' 0 8)))

/-- R71: the DATA of every command but PUSH_PIXEL may hold any value and has no effect. Only the copy of it that stands
in the DATA register differs. -/
def Obligations.IgnoredDataHasNoEffect : Prop :=
  ∀ (s : State) (w w' : CommandWord) (rest : List PortEvent),
    opcField w = opcField w' → opcField w ≠ 0x02#8 →
    withoutData (step { s with port := .issue (.command w) :: rest }) =
      withoutData (step { s with port := .issue (.command w') :: rest })

/-- R151 and R152: a token takes one byte, (i << 5) | h, exactly when t = 0 and h < 16, and else the two bytes of
(i << 13) | (1 << 12) | (h << 6) | t, the high byte first. -/
def Obligations.TokenBytesByForm : Prop :=
  ∀ (i : PalIndex) (h t : Nat), lengthsFit h t = true →
    (t = 0 ∧ h < 16 → ∃ b : Byte, packToken i h t = [b] ∧ b.toNat = i.toNat * 32 + h) ∧
    (¬(t = 0 ∧ h < 16) → ∃ b0 b1 : Byte, packToken i h t = [b0, b1] ∧
      b0.toNat * 256 + b1.toNat = i.toNat * 8192 + 4096 + h * 64 + t)

/-- R78: reading back the bytes of a token gives its index and its lengths, and leaves the bytes after it. -/
def Obligations.TokenReadsBack : Prop :=
  ∀ (i : PalIndex) (h t : Nat) (rest : List Byte), lengthsFit h t = true →
    readToken (packToken i h t ++ rest) = .ok ((i.toNat, h, t), rest)

/-! ## Steps and reset -/

/-- When the word that stands first on the port decodes to an instruction, the step is `exec` of it, after the word has
left the port and, for a command, its fields stand in CMD and DATA. (The port is the model's: log entries 1 and 2.) -/
def Obligations.StepRunsDecodedInstruction : Prop :=
  ∀ (s : State) (f : Fetched) (rest : List PortEvent) (i : Instr),
    s.port = .issue f :: rest → decode f = .ok i →
    step s = exec i (takeIssue f rest s) ∧
    (∀ w, f = .command w →
      takeIssue f rest s = { s with port := rest, cmd := opcField w, data := dataField w }) ∧
    (∀ b0 b1, f = .token b0 b1 → takeIssue f rest s = { s with port := rest })

/-- R241: with nothing to do the block waits. (That a step with an empty port waits is the model's form of it: log
entry 1.) -/
def Obligations.EmptyPortWaits : Prop := ∀ s : State, s.port = [] → step s = .next s

/-- R240: on reset, from any state, every element that has a value after reset takes it. -/
def Obligations.ResetTakesResetValues : Prop :=
  ∀ (s : State) (rest : List PortEvent), s.port = .reset :: rest →
    ∃ t, step s = .next t ∧ t.state = .idle ∧ t.err = .none ∧ t.rej = false ∧ t.palSize = 1#4 ∧
      palAt t 0 = some 0xFF00FFFF#32 ∧ t.fill = 0#7 ∧ t.tokLen = 0#32 ∧ t.outLen = 0#32 ∧ t.outRd = 0#32 ∧
      t.chunks = 0#14

/-- From R241: the block from reset until START. The state after reset is IDLE and its STATUS reads 0. In IDLE the block
waits for commands (that a step with an empty port is the wait is the model's choice: log entry 1); NOP and READ_OUTLEN
are answered; PUSH_PIXEL, END_INPUT and READ_OUT are rejected; START is taken; and no host command but START leaves IDLE,
nor does reset (the premise keeps the port to these; that a token can stand on it is the model's choice: log entry 3). -/
def Obligations.AfterResetOnlyStartOpens : Prop :=
  (State.reset.state = .idle ∧ status State.reset = 0x00000000#32) ∧
  (∀ s : State, s.state = .idle →
    (s.port = [] → step s = .next s) ∧
    exec .nop s = .next { s with result := status s } ∧
    exec .readOutLen s = .next { s with result := s.outLen } ∧
    (∀ p, exec (.pushPixel p) s = .next { s with rej := true, result := status { s with rej := true } }) ∧
    exec .endInput s = .next { s with rej := true, result := status { s with rej := true } } ∧
    exec .readOut s = .next { s with rej := true, result := 0xFFFFFFFF#32 } ∧
    (∃ t, exec .start s = .next t ∧ t.state = .accepting)) ∧
  (∀ s t : State, s.state = .idle → (∀ e ∈ s.port, atPort e = true) → step s = .next t →
    t.state = .idle ∨ ∃ f rest, s.port = .issue f :: rest ∧ decode f = .ok .start)

/-! ## Status and rejection -/

/-- R35: the fields of STATUS, with the codes of STATE and ERR, its reserved bits, its value at reset, and that it is
never 0xFFFFFFFF. -/
def Obligations.StatusFields : Prop :=
  (∀ s : State,
    ((s.state = .idle → (status s).extractLsb' 0 2 = 0#2) ∧
      (s.state = .accepting → (status s).extractLsb' 0 2 = 1#2) ∧
      (s.state = .done → (status s).extractLsb' 0 2 = 2#2) ∧
      (s.state = .error → (status s).extractLsb' 0 2 = 3#2)) ∧
    (status s).getLsbD 2 = s.rej ∧
    (status s).getLsbD 3 = false ∧
    ((s.err = .none → (status s).extractLsb' 4 3 = 0#3) ∧
      (s.err = .paletteFull → (status s).extractLsb' 4 3 = 1#3) ∧
      (s.err = .malformedInput → (status s).extractLsb' 4 3 = 2#3) ∧
      (s.err = .outputOverflow → (status s).extractLsb' 4 3 = 3#3) ∧
      (s.err = .lengthAssert → (status s).extractLsb' 4 3 = 4#3)) ∧
    (status s).getLsbD 7 = false ∧
    (status s).extractLsb' 8 3 = BitVec.ofNat 3 (s.palSize.toNat - 1) ∧
    (status s).getLsbD 11 = false ∧
    (status s).extractLsb' 12 6 = s.fill.extractLsb' 0 6 ∧
    (status s).extractLsb' 18 14 = s.chunks ∧
    status s ≠ 0xFFFFFFFF#32) ∧
  status State.reset = 0x00000000#32

/-- R181 and R182: PUSH_PIXEL and END_INPUT outside ACCEPTING set REJ, change nothing else, and answer STATUS after
REJ is set. -/
def Obligations.IllegalPushAndEndAreRejected : Prop :=
  ∀ s : State, s.state ≠ .accepting →
    (∀ p, exec (.pushPixel p) s = .next { s with rej := true, result := status { s with rej := true } }) ∧
    exec .endInput s = .next { s with rej := true, result := status { s with rej := true } }

/-- R189: a reserved opcode sets REJ, changes nothing else, and answers STATUS. -/
def Obligations.ReservedOpcodeIsRejected : Prop :=
  ∀ (s : State) (w : CommandWord) (rest : List PortEvent),
    s.port = .issue (.command w) :: rest → 6 ≤ (opcField w).toNat →
    step s = .next { s with
      port := rest, cmd := opcField w, data := dataField w, rej := true, result := status { s with rej := true } }

/-- R182: a command that is issued with REJ clear leaves REJ set exactly when the legality table forbids it in the
STATE it is issued in. A forbidden command changes nothing but REJ (R181), so that the registry cannot change, and answers
STATUS after REJ is set, READ_OUT NO_DATA; a reserved opcode is forbidden in every STATE. -/
def Obligations.RejectedExactlyWhenIllegal : Prop :=
  (∀ (i : Instr) (s t : State), isCommand i = true → s.rej = false → exec i s = .next t →
    (t.rej = true ↔ legalIn i s.state = false)) ∧
  (∀ (i : Instr) (s : State), isCommand i = true → legalIn i s.state = false →
    exec i s = .next { s with
      rej := true, result := if i = .readOut then 0xFFFFFFFF#32 else status { s with rej := true } }) ∧
  (∀ s : State, execReserved s = .next { s with rej := true, result := status { s with rej := true } })

/-- R25: REJ is cleared only by START and reset. -/
def Obligations.RejIsSticky : Prop :=
  ∀ s t : State, s.rej = true → step s = .next t → t.rej = false →
    (∃ rest, s.port = .reset :: rest) ∨ ∃ f rest, s.port = .issue f :: rest ∧ decode f = .ok .start

/-! ## The commands -/

/-- R183: NOP answers STATUS in every state and changes nothing else. -/
def Obligations.NopAnswersStatus : Prop := ∀ s : State, exec .nop s = .next { s with result := status s }

/-- From R184: START opens an operation from every state, answers 0x00000001, and changes nothing beyond the elements it
initializes. That the contents which R38 leaves unspecified after START stay in place is the model's choice: PAL[1..7],
CHUNK_BUF and TOKBUF by log entry 17, HEAD and TAIL by log entry 16, CMD and DATA by log entry 2. -/
def Obligations.StartOpensOperation : Prop :=
  ∀ s : State, exec .start s = .next { s with
    palSize := 1#4, fill := 0#7, tokLen := 0#32, outLen := 0#32, outRd := 0#32, chunks := 0#14, err := .none,
    rej := false, state := .accepting, result := 0x00000001#32 }

/-- R51 and R185: a PUSH_PIXEL that does not complete its chunk stores the pixel at position FILL, increments FILL,
answers STATUS, and changes nothing else. -/
def Obligations.PushPixelStoresPixel : Prop :=
  ∀ (p : Pixel) (s : State), s.state = .accepting → s.fill.toNat < 63 →
    ∃ t, exec (.pushPixel p) s = .next t ∧
      t = { s with chunkBuf := t.chunkBuf, fill := s.fill + 1, result := status { s with fill := s.fill + 1 } } ∧
      ∀ j, j < 64 → chunkAt t j = if j = s.fill.toNat then p else chunkAt s j

/-- R185, R120, R128, R220: the 64th PUSH_PIXEL of a chunk stores its pixel and scans the chunk. Either the scan
completes: FILL is 0, CHUNKS is one higher, the answer is STATUS; or it raises PALETTE_FULL or OUTPUT_OVERFLOW, and the
error entry is taken. In both cases the pixel stands in the buffer, and everything that neither a scan nor the error
entry writes is as it was, every byte of TOKBUF outside the bytes appended among it. (That the error entry leaves the
contents of CHUNK_BUF and TOKBUF and the cursors in place is the model's choice: log entries 16 and 17.) -/
def Obligations.PushPixelCompletesChunk : Prop :=
  ∀ (p : Pixel) (s : State), s.state = .accepting → s.fill = 63#7 → s.tokLen.toNat + 64 < 2 ^ 32 →
    ∃ t, exec (.pushPixel p) s = .next t ∧ t.result = status t ∧
      (∀ j, j < 64 → chunkAt (storePixel p s) j = if j = 63 then p else chunkAt s j) ∧
      ((∃ u, encodeChunk (storePixel p s) = .ok () u ∧ ScanFrame (storePixel p s) u ∧
          u.freeCount = s.freeCount ∧ u.fill = 0#7 ∧ u.chunks = s.chunks + 1 ∧ t = { u with result := t.result }) ∨
        (∃ c u, encodeChunk (storePixel p s) = .raised c u ∧ (c = .paletteFull ∨ c = .outputOverflow) ∧
          ScanFrame (storePixel p s) u ∧ u.freeCount = s.freeCount ∧ u.chunks = s.chunks ∧
          t = { u with
            err := c, state := .error, tokLen := 0#32, outLen := 0#32, outRd := 0#32, fill := 0#7,
            result := t.result }))

/-- R186: END_INPUT with no partial chunk serializes, sets OUT_LEN and OUT_RD, enters DONE, answers STATUS, and changes
nothing else. -/
def Obligations.EndInputWithoutPartialChunk : Prop :=
  ∀ s : State, s.state = .accepting → s.fill = 0#7 →
    1 + 3 * (s.palSize.toNat - 1) + s.tokLen.toNat < 2 ^ 32 →
    exec .endInput s = .next { s with
      outLen := BitVec.ofNat 32 (1 + 3 * (s.palSize.toNat - 1) + s.tokLen.toNat), outRd := 0#32, state := .done,
      result := status { s with state := .done } }

/-- R186: END_INPUT with a partial chunk under PAD_SENTINEL fills the positions FILL..63 with the sentinel and scans the
chunk. Either the scan completes, and the output is serialized from the state it leaves: DONE is entered and STATUS
answered; or it raises PALETTE_FULL or OUTPUT_OVERFLOW, and the error entry is taken. Everything else is as it was, every
byte of TOKBUF outside the bytes appended among it. (That the error entry leaves the contents of CHUNK_BUF and TOKBUF and
the cursors in place is the model's choice: log entries 16 and 17.) -/
def Obligations.EndInputPadsPartialChunk : Prop :=
  ∀ s : State, s.state = .accepting → s.fill ≠ 0#7 → s.params.padPolicy = .padSentinel →
    s.tokLen.toNat + 128 < 2 ^ 32 →
    ∃ t, exec .endInput s = .next t ∧ t.result = status t ∧
      (∀ j, j < 64 → chunkAt (padChunk s) j = if s.fill.toNat ≤ j then 0xFF00FFFF#32 else chunkAt s j) ∧
      ((∃ u, encodeChunk (padChunk s) = .ok () u ∧ ScanFrame (padChunk s) u ∧
          u.freeCount = s.freeCount ∧ u.fill = 0#7 ∧ u.chunks = s.chunks + 1 ∧
          t = { u with
            outLen := BitVec.ofNat 32 (1 + 3 * (u.palSize.toNat - 1) + u.tokLen.toNat), outRd := 0#32,
            state := .done, result := t.result }) ∨
        (∃ c u, encodeChunk (padChunk s) = .raised c u ∧ (c = .paletteFull ∨ c = .outputOverflow) ∧
          ScanFrame (padChunk s) u ∧ u.freeCount = s.freeCount ∧ u.chunks = s.chunks ∧
          t = { u with
            err := c, state := .error, tokLen := 0#32, outLen := 0#32, outRd := 0#32, fill := 0#7,
            result := t.result }))

/-- R213: END_INPUT with FILL > 0 under PAD_POLICY = REJECT raises MALFORMED_INPUT and takes the error entry; nothing else
raises it: an instruction that newly leads to that ERR is END_INPUT, in ACCEPTING, with FILL > 0, under REJECT. So under
PAD_SENTINEL it is never raised. (That the error entry leaves the contents of CHUNK_BUF and TOKBUF and the cursors in
place is the model's choice: log entries 16 and 17.) -/
def Obligations.MalformedInputUnderRejectOnly : Prop :=
  (∀ s : State, s.state = .accepting → s.fill ≠ 0#7 → s.params.padPolicy = .reject →
    ∃ t, exec .endInput s = .next t ∧ t.result = status t ∧
      t = { s with
        err := .malformedInput, state := .error, tokLen := 0#32, outLen := 0#32, outRd := 0#32, fill := 0#7,
        result := t.result }) ∧
  (∀ (i : Instr) (s t : State), s.err ≠ .malformedInput → exec i s = .next t → t.err = .malformedInput →
    i = .endInput ∧ s.state = .accepting ∧ s.fill ≠ 0#7 ∧ s.params.padPolicy = .reject)

/-- R187: in DONE, READ_OUT answers the output byte at OUT_RD, zero-extended, moves OUT_RD up by one, and changes nothing
else. -/
def Obligations.ReadOutDeliversNextByte : Prop :=
  ∀ (s : State) (b : Byte), s.state = .done → s.outRd.toNat < s.outLen.toNat → outByte s s.outRd.toNat = some b →
    exec .readOut s = .next { s with outRd := s.outRd + 1, result := b.setWidth 32 }

/-- R187 and R181: READ_OUT past the end answers NO_DATA and changes nothing; outside DONE it is rejected, with NO_DATA as
its answer. -/
def Obligations.ReadOutWithoutByteAnswersNoData : Prop :=
  ∀ s : State,
    (s.state = .done → s.outRd = s.outLen → exec .readOut s = .next { s with result := 0xFFFFFFFF#32 }) ∧
    (s.state ≠ .done → exec .readOut s = .next { s with rej := true, result := 0xFFFFFFFF#32 })

/-- R188: READ_OUTLEN answers OUT_LEN in every state and changes nothing else; in a legal state outside DONE the answer
is 0, and in DONE, where 32 bits hold the output's length, at least 1. -/
def Obligations.ReadOutLenAnswersLength : Prop :=
  (∀ s : State, exec .readOutLen s = .next { s with result := s.outLen }) ∧
  (∀ s : State, Inv s → s.state ≠ .done → exec .readOutLen s = .next { s with result := 0#32 }) ∧
  (∀ s : State, Inv s → s.state = .done → outputLength s < 2 ^ 32 → 1 ≤ s.outLen.toNat)

/-- Which instructions stop, and when: only a PUSH_PIXEL at FILL above 63 and a READ_OUT of an output byte that holds no
value. Both are the model's choice (log entries 7 and 12); no legal state is one of them. -/
def Obligations.StopsAreCharacterised : Prop :=
  ∀ (i : Instr) (s : State),
    ((∃ t, exec i s = .next t) ∨ ∃ r, exec i s = .fault r) ∧
    (∀ r, exec i s = .fault r ↔
      (r = .chunkBufRange ∧ (∃ p, i = .pushPixel p) ∧ s.state = .accepting ∧ 64 ≤ s.fill.toNat) ∨
      (r = .outNoValue ∧ i = .readOut ∧ s.state = .done ∧ s.outRd ≠ s.outLen ∧ outByte s s.outRd.toNat = none))

/-! ## The tokens -/

/-- R150, R151, R153: TOKEN.SHORT with a nonzero head length and room for one byte appends its byte at TOK_LEN, moves
TOK_LEN up by one, and changes nothing else; every other byte of TOKBUF reads as before. -/
def Obligations.TokenShortAppendsByte : Prop :=
  ∀ (i : PalIndex) (h : BitVec 4) (s : State), h ≠ 0#4 →
    (∀ cap, s.params.tokCap = .bytes cap → s.tokLen.toNat + 1 ≤ cap) → s.tokLen.toNat + 1 < 2 ^ 32 →
    ∃ t, exec (.tokenShort i h) s = .next t ∧
      t = { s with tokBuf := t.tokBuf, tokLen := s.tokLen + 1 } ∧
      Memory.read t.tokBuf s.tokLen.toNat = some (packShort i h) ∧
      ∀ a, a ≠ s.tokLen.toNat → Memory.read t.tokBuf a = Memory.read s.tokBuf a

/-- R150, R152, R153: TOKEN.LONG with a nonzero head length that the short form cannot hold and room for two bytes
appends W[15:8] then W[7:0] at TOK_LEN, moves TOK_LEN up by two, and changes nothing else; every other byte of TOKBUF
reads as before. -/
def Obligations.TokenLongAppendsTwoBytes : Prop :=
  ∀ (i : PalIndex) (h t : BitVec 6) (s : State), h ≠ 0#6 → t ≠ 0#6 ∨ 16 ≤ h.toNat →
    (∀ cap, s.params.tokCap = .bytes cap → s.tokLen.toNat + 2 ≤ cap) → s.tokLen.toNat + 2 < 2 ^ 32 →
    ∃ u, exec (.tokenLong i h t) s = .next u ∧
      u = { s with tokBuf := u.tokBuf, tokLen := s.tokLen + 2 } ∧
      Memory.read u.tokBuf s.tokLen.toNat = some ((longWord i h t).extractLsb' 8 8) ∧
      Memory.read u.tokBuf (s.tokLen.toNat + 1) = some ((longWord i h t).extractLsb' 0 8) ∧
      ∀ a, a ≠ s.tokLen.toNat → a ≠ s.tokLen.toNat + 1 → Memory.read u.tokBuf a = Memory.read s.tokBuf a

/-- A TOKEN.LONG whose lengths the short form holds does what the TOKEN.SHORT of those lengths does. That a presented
non-canonical token is emitted in its canonical form is the model's reading of R150 and R151 (log entry 4). -/
def Obligations.NonCanonicalTokenTakesShortForm : Prop :=
  ∀ (i : PalIndex) (h : BitVec 4) (s : State),
    exec (.tokenLong i (h.setWidth 6) 0#6) s = exec (.tokenShort i h) s

/-- R155, R154, R218: a token with h = 0 raises LENGTH_ASSERT, whatever room there is; else one that does not fit TOK_CAP
raises OUTPUT_OVERFLOW. Both take the error entry, and no byte of TOKBUF is written. (That a token word can be presented
by itself is the model's: log entry 3; what the error entry leaves in place: log entries 16 and 17.) -/
def Obligations.TokenErrorsTakeErrorEntry : Prop :=
  (∀ (i : PalIndex) (s : State), exec (.tokenShort i 0#4) s = .next (errorEntry .lengthAssert s)) ∧
  (∀ (i : PalIndex) (t : BitVec 6) (s : State),
    exec (.tokenLong i 0#6 t) s = .next (errorEntry .lengthAssert s)) ∧
  (∀ (i : PalIndex) (h : BitVec 4) (s : State) (cap : Nat), h ≠ 0#4 → s.params.tokCap = .bytes cap →
    cap < s.tokLen.toNat + 1 → exec (.tokenShort i h) s = .next (errorEntry .outputOverflow s)) ∧
  (∀ (i : PalIndex) (h t : BitVec 6) (s : State) (cap : Nat), h ≠ 0#6 → t ≠ 0#6 ∨ 16 ≤ h.toNat →
    s.params.tokCap = .bytes cap → cap < s.tokLen.toNat + 2 →
    exec (.tokenLong i h t) s = .next (errorEntry .outputOverflow s))

/-- R150, R154, R155, R218: what EMIT_TOKEN answers for any lengths at all. A length out of range raises LENGTH_ASSERT,
before the capacity is looked at; a token that does not fit raises OUTPUT_OVERFLOW; both leave the state as it was. Else
the bytes stand at TOK_LEN and above, in order, TOK_LEN has moved by their number, and nothing else has changed. -/
def Obligations.EmitTokenChecksThenAppends : Prop :=
  ∀ (i : PalIndex) (h t : Nat) (s : State),
    (h = 0 ∨ 63 < h ∨ 63 < t → emitToken i h t s = .raised .lengthAssert s) ∧
    (∀ cap, 1 ≤ h → h ≤ 63 → t ≤ 63 → s.params.tokCap = .bytes cap →
      cap < s.tokLen.toNat + (packToken i h t).length → emitToken i h t s = .raised .outputOverflow s) ∧
    (1 ≤ h → h ≤ 63 → t ≤ 63 →
      (∀ cap, s.params.tokCap = .bytes cap → s.tokLen.toNat + (packToken i h t).length ≤ cap) →
      s.tokLen.toNat + 2 < 2 ^ 32 →
      ∃ u, emitToken i h t s = .ok () u ∧ u = { s with tokBuf := u.tokBuf, tokLen := u.tokLen } ∧
        u.tokLen.toNat = s.tokLen.toNat + (packToken i h t).length ∧
        ∀ a, Memory.read u.tokBuf a =
          if s.tokLen.toNat ≤ a ∧ a < u.tokLen.toNat then (packToken i h t)[a - s.tokLen.toNat]?
          else Memory.read s.tokBuf a)

/-! ## The registry -/

/-- R102: a lookup that some valid entry matches answers the lowest matching index and changes nothing. -/
def Obligations.LookupHitChangesNothing : Prop :=
  ∀ (p : Pixel) (s : State) (k : Nat), k < s.palSize.toNat → palAt s k = some p →
    ∃ j, j ≤ k ∧ palAt s j = some p ∧ (∀ l, l < j → palAt s l ≠ some p) ∧
      lookupOrInsert p s = .ok (BitVec.ofNat 3 j) s

/-- R103 and R104: on a miss, with at most 7 entries the pixel is appended at the index PAL_SIZE, which is answered, and
no other entry changes; with 8 entries PALETTE_FULL is raised and nothing changes, so that NCOL reads 7 after the error
entry. -/
def Obligations.LookupMissAppendsOrRaises : Prop :=
  ∀ (p : Pixel) (s : State), (∀ k, k < s.palSize.toNat → palAt s k ≠ some p) →
    (1 ≤ s.palSize.toNat → s.palSize.toNat ≤ 7 →
      ∃ t, lookupOrInsert p s = .ok (BitVec.ofNat 3 s.palSize.toNat) t ∧
        t = { s with pal := t.pal, palSize := s.palSize + 1 } ∧
        ∀ k, palAt t k = if k = s.palSize.toNat then some p else palAt s k) ∧
    (s.palSize.toNat = 8 → lookupOrInsert p s = .raised .paletteFull s ∧
      (status (errorEntry .paletteFull s)).extractLsb' 8 3 = 7#3)

/-- R106: with at least the one entry the registry always has, a lookup of the sentinel hits at index 0 and changes
nothing. -/
def Obligations.SentinelAlwaysHitsAtZero : Prop :=
  ∀ s : State, 1 ≤ s.palSize.toNat → lookupOrInsert 0xFF00FFFF#32 s = .ok 0#3 s

/-! ## The chunk scan -/

/-- R123, R124 and R125: in every window the scan can be at, the tail run stays above the head cursor and the head run
stays at or below what the tail run left; the head run takes at least one pixel; both lengths are at most 63 and their
sum at most the window; every consumed pixel equals the baseline, and each run ends at the boundary or at another pixel.
-/
def Obligations.ScanStepBounds : Prop :=
  ∀ (pixel : Nat → Pixel) (head tail : Nat), head ≤ tail → tail ≤ 63 →
    let t1 := tailAfter pixel head tail
    let h1 := headAfter pixel head tail
    (head ≤ t1 ∧ t1 ≤ tail ∧ head + 1 ≤ h1 ∧ h1 ≤ t1 + 1) ∧
    (h1 - head) + (tail - t1) ≤ tail - head + 1 ∧ h1 - head ≤ 63 ∧ tail - t1 ≤ 63 ∧
    (∀ j, t1 < j → j ≤ tail → pixel j = pixel head) ∧
    (∀ j, head ≤ j → j < h1 → pixel j = pixel head) ∧
    (t1 ≠ head → pixel t1 ≠ pixel head) ∧
    (h1 ≤ t1 → pixel h1 ≠ pixel head)

/-- R127: a chunk has at most 64 tokens, and at least one; the sum of their head and tail lengths is exactly 64; their
head and tail runs partition the positions 0..63, so that the runs, put back in place, are the chunk; and a scan that
completes ends with HEAD = TAIL + 1. -/
def Obligations.TokensConsumeChunkExactly : Prop :=
  (∀ pixel : Nat → Pixel,
    1 ≤ (chunkRuns pixel).length ∧ (chunkRuns pixel).length ≤ 64 ∧
    ((chunkRuns pixel).map Run.consumed).sum = 64 ∧
    runPixels (chunkRuns pixel) = (List.range 64).map pixel) ∧
  (∀ s t : State, encodeChunk s = .ok () t → t.head.toNat = t.tail.toNat + 1)

/-- R129: consecutive tokens of one chunk have different baselines. -/
def Obligations.ConsecutiveTokensDiffer : Prop :=
  ∀ (pixel : Nat → Pixel) (n : Nat) (a b : Run),
    (chunkRuns pixel)[n]? = some a → (chunkRuns pixel)[n + 1]? = some b → a.baseline ≠ b.baseline

/-- R130: whatever indices its baselines have, the tokens of a chunk take between 2 and 64 bytes. -/
def Obligations.ChunkTakesTwoToSixtyFourBytes : Prop :=
  ∀ (pixel : Nat → Pixel) (index : Pixel → PalIndex),
    let bytes := (chunkRuns pixel).flatMap fun r => packToken (index r.baseline) r.headLength r.tailLength
    2 ≤ bytes.length ∧ bytes.length ≤ 64

/-- R120, R126, R153: a scan that completes has appended exactly the bytes of the chunk's tokens, in scan-step order, each
with the index its baseline has in the registry the scan leaves; FILL is 0 and CHUNKS one higher. -/
def Obligations.ScanEmitsTheChunksTokens : Prop :=
  ∀ s t : State, 1 ≤ s.palSize.toNat → s.palSize.toNat ≤ 8 → s.tokLen.toNat + 64 < 2 ^ 32 →
    encodeChunk s = .ok () t →
    let bytes := (chunkRuns (chunkAt s)).flatMap (runBytes t)
    t.tokLen.toNat = s.tokLen.toNat + bytes.length ∧
    (∀ n, n < bytes.length → Memory.read t.tokBuf (s.tokLen.toNat + n) = bytes[n]?) ∧
    t.fill = 0#7 ∧ t.chunks = s.chunks + 1 ∧ ScanFrame s t

/-- R134: a chunk of 64 copies of one pixel gives exactly the one token TOK(i, 1, 63), where i is the pixel's index. -/
def Obligations.UniformChunkIsOneToken : Prop :=
  ∀ (p : Pixel) (i : PalIndex) (s s1 : State), (∀ j, j < 64 → chunkAt s j = p) →
    lookupOrInsert p s = .ok i s1 → capFits s.params.tokCap (s.tokLen.toNat + 2) = true →
    s.tokLen.toNat + 2 < 2 ^ 32 →
    ∃ t, encodeChunk s = .ok () t ∧ t.pal = s1.pal ∧ t.palSize = s1.palSize ∧
      t.tokLen.toNat = s.tokLen.toNat + 2 ∧
      Memory.read t.tokBuf s.tokLen.toNat = some (i ++ 0b1#1 ++ 0b0000#4) ∧
      Memory.read t.tokBuf (s.tokLen.toNat + 1) = some 0x7F#8

/-- R155 and R215: no chunk scan raises LENGTH_ASSERT, from any state. -/
def Obligations.ScanNeverRaisesLengthAssert : Prop :=
  ∀ s t : State, encodeChunk s ≠ .raised .lengthAssert t

/-- R214: a scan raises OUTPUT_OVERFLOW only with a limited TOK_CAP that has not room for 64 more bytes. -/
def Obligations.OverflowOnlyWhenBufferShort : Prop :=
  ∀ s t : State, s.tokLen.toNat + 64 < 2 ^ 32 → encodeChunk s = .raised .outputOverflow t →
    ∃ cap, s.params.tokCap = .bytes cap ∧ cap < s.tokLen.toNat + 64

/-! ## The output -/

/-- R160: the bytes of OUT. The header byte is the number of real colours; then R, G, B of each entry in index order;
then the token bytes; and nothing beyond. -/
def Obligations.OutputLayout : Prop :=
  ∀ s : State,
    let n := s.palSize.toNat - 1
    outByte s 0 = some (BitVec.ofNat 8 n) ∧
    (∀ k p, k < n → palAt s (k + 1) = some p →
      outByte s (1 + 3 * k) = some (p.extractLsb' 24 8) ∧
      outByte s (1 + 3 * k + 1) = some (p.extractLsb' 16 8) ∧
      outByte s (1 + 3 * k + 2) = some (p.extractLsb' 8 8)) ∧
    (∀ j, j < s.tokLen.toNat → outByte s (1 + 3 * n + j) = Memory.read s.tokBuf j) ∧
    (∀ j, 1 + 3 * n + s.tokLen.toNat ≤ j → outByte s j = none)

/-- R187 and R190: in DONE with the whole output readable and none of it read, READ_OUTs deliver its bytes once each, in
order, and the one after the last answers NO_DATA. -/
def Obligations.OutputIsReadInOrder : Prop :=
  ∀ (s : State) (bytes : List Byte), s.state = .done → s.outRd = 0#32 → outView s = some bytes →
    (∀ (k : Nat) (b : Byte), bytes[k]? = some b →
      ∃ t, run (k + 1) { s with port := List.replicate (k + 1) (issueOf .readOut) } = .next t ∧
        t.result = b.setWidth 32 ∧ t.outRd.toNat = k + 1) ∧
    (∃ t, run (bytes.length + 1) { s with port := List.replicate (bytes.length + 1) (issueOf .readOut) } = .next t ∧
      t.result = 0xFFFFFFFF#32 ∧ t.rej = s.rej ∧ t.outRd = s.outLen)

/-- R168: the reference decoder fails on each kind of malformed stream. On a truncated header, a palette size above 7 and
a truncated palette; and, after a whole header and palette, any whole chunks and any tokens of a chunk that leave
positions of it open, on the stream's end, on a long token without its second byte, on a token with h = 0, on an index
above the palette size, and on a token longer than what is left of the chunk. -/
def Obligations.DecoderFailsOnMalformedStreams : Prop :=
  (∀ c4, refDecode c4 [] = .error .truncated) ∧
  (∀ (c4 : Nat → Byte) (n : Byte) (bs : List Byte), 7 < n.toNat → refDecode c4 (n :: bs) = .error .badPaletteSize) ∧
  (∀ (c4 : Nat → Byte) (n : Byte) (bs : List Byte), n.toNat ≤ 7 → bs.length < 3 * n.toNat →
    refDecode c4 (n :: bs) = .error .truncated) ∧
  (∀ (c4 : Nat → Byte) (n : Byte) (table chunks part : List Byte) (px : List Pixel) (left : Nat),
    table.length = 3 * n.toNat → refDecode c4 (n :: table ++ chunks) = .ok px →
    TakesTokens n.toNat 64 part left → 1 ≤ left →
    (part ≠ [] → refDecode c4 (n :: table ++ chunks ++ part) = .error .truncated) ∧
    (∀ b0 : Byte, b0.getLsbD 4 = true → refDecode c4 (n :: table ++ chunks ++ part ++ [b0]) = .error .truncated) ∧
    (∀ (i h t : Nat) (bad rest : List Byte), readToken bad = .ok ((i, h, t), rest) →
      (h = 0 → refDecode c4 (n :: table ++ chunks ++ part ++ bad) = .error .zeroHead) ∧
      (h ≠ 0 → n.toNat < i → refDecode c4 (n :: table ++ chunks ++ part ++ bad) = .error .badIndex) ∧
      (h ≠ 0 → i ≤ n.toNat → left < h + t →
        refDecode c4 (n :: table ++ chunks ++ part ++ bad) = .error .overrun)))

/-! ## Errors -/

/-- From R220: the error entry records the code, enters ERROR, discards the tokens, the output and the current chunk,
answers STATUS, and leaves PAL, PAL_SIZE, CHUNKS and REJ as they were. That it leaves all else as it was is the model's
choice: the contents of CHUNK_BUF and TOKBUF by log entry 17, HEAD and TAIL by log entry 16, CMD and DATA by log
entry 2. -/
def Obligations.ErrorEntryDiscardsOutput : Prop :=
  ∀ (c : ErrCode) (s : State),
    (errorEntry c s).result = status (errorEntry c s) ∧
    errorEntry c s = { s with
      err := c, state := .error, tokLen := 0#32, outLen := 0#32, outRd := 0#32, fill := 0#7,
      result := (errorEntry c s).result }

/-- R219 and R222: in ERROR every host command but START keeps STATE, ERR, the registry and CHUNKS, and delivers no
output byte; START leaves ERROR. -/
def Obligations.ErrorLeftOnlyByStart : Prop :=
  ∀ (i : Instr) (s t : State), Inv s → s.state = .error → isCommand i = true → exec i s = .next t →
    (i = .start → t.state = .accepting ∧ t.err = .none) ∧
    (i ≠ .start → t.state = .error ∧ t.err = s.err ∧ t.pal = s.pal ∧ t.palSize = s.palSize ∧ t.chunks = s.chunks ∧
      t.outLen = 0#32 ∧ t.tokLen = 0#32) ∧
    (i = .readOut → t.result = 0xFFFFFFFF#32)

/-- R63: READ_OUT answers an output byte only in DONE, and a step that takes an error leaves no output: nothing of a
failed operation can be read. -/
def Obligations.NoOutputBeforeDone : Prop :=
  (∀ s t : State, exec .readOut s = .next t → t.result ≠ 0xFFFFFFFF#32 → s.state = .done) ∧
  (∀ (i : Instr) (s t : State), s.state ≠ .error → exec i s = .next t → t.state = .error →
    t.tokLen = 0#32 ∧ t.outLen = 0#32 ∧ t.outRd = 0#32 ∧ t.fill = 0#7 ∧ t.err ≠ .none)

/-! ## Whole-machine rules -/

/-- R23: the transitions of STATE under the host's commands and reset, and no others. (The premise keeps tokens off the
port; that one can stand on it is the model's choice: log entry 3.) -/
def Obligations.StateTransitions : Prop :=
  ∀ s t : State, (∀ e ∈ s.port, atPort e = true) → step s = .next t →
    (∀ rest, s.port = .reset :: rest → t.state = .idle) ∧
    (∀ f rest, s.port = .issue f :: rest → decode f = .ok .start → t.state = .accepting) ∧
    (t.state ≠ s.state →
      (t.state = .idle ∧ ∃ rest, s.port = .reset :: rest) ∨
      (t.state = .accepting ∧ ∃ f rest, s.port = .issue f :: rest ∧ decode f = .ok .start) ∨
      (s.state = .accepting ∧ t.state = .done ∧ t.err = s.err ∧
        ∃ f rest, s.port = .issue f :: rest ∧ decode f = .ok .endInput) ∨
      (s.state = .accepting ∧ t.state = .error ∧ t.err ≠ .none ∧
        ∃ f rest, s.port = .issue f :: rest ∧
          (decode f = .ok .endInput ∨ ∃ p, decode f = .ok (.pushPixel p))))

/-- R108: in DONE and in ERROR no host command but START writes the registry; in DONE the tokens and OUT_LEN stay as
well. -/
def Obligations.RegistryFrozenAfterOperation : Prop :=
  ∀ (i : Instr) (s t : State), isCommand i = true → i ≠ .start → s.state = .done ∨ s.state = .error →
    exec i s = .next t →
    t.pal = s.pal ∧ t.palSize = s.palSize ∧ t.state = s.state ∧ t.tokBuf = s.tokBuf ∧ t.tokLen = s.tokLen ∧
      t.outLen = s.outLen

/-- No step writes PAD_POLICY or TOK_CAP (R20, R243). That State carries them is the model's form (log entry 5). -/
def Obligations.ParametersNeverChange : Prop := ∀ s t : State, step s = .next t → t.params = s.params

/-- Every step, of any kind, keeps TOKBUF in its canonical form: its listed indices rise strictly. The form is the
model's own (log entry 20); no rule of the spec speaks of it. -/
def Obligations.EveryStepKeepsTokbufCanonical : Prop :=
  ∀ s t : State, Memory.wf s.tokBuf = true → step s = .next t → Memory.wf t.tokBuf = true

/-- The state after reset is legal. -/
def Obligations.InvAtReset : Prop := Inv State.reset

/-- Every step keeps the legal states: the registry's invariants (R28), the ranges of FILL, PAL_SIZE, TOK_LEN, OUT_LEN and
OUT_RD, ERR with STATE, and a token buffer whose valid bytes all hold values. (That the token buffer is in its canonical
form is the model's own part of it: log entry 20.) -/
def Obligations.EveryStepKeepsInv : Prop := ∀ s t : State, Inv s → step s = .next t → Inv t

/-- From a legal state no step stops: the faults of the model (log entries 7 and 12) are taken from no legal state, as R242
says of the first. (That nothing a step does depends on state that holds no value is `UnwrittenStateIsNeverRead`.) -/
def Obligations.LegalStatesNeverStop : Prop := ∀ s : State, Inv s → ∃ t, step s = .next t

/-- R242: nothing a step does depends on a part of the state that holds no value. Two states that agree elsewhere stop
alike, or go to two states that agree elsewhere; and after a command they have given the same answer. -/
def Obligations.UnwrittenStateIsNeverRead : Prop :=
  ∀ s t : State, SameLive s t →
    (∀ s', step s = .next s' → ∃ t', step t = .next t' ∧ SameLive s' t' ∧
      (∀ w rest, s.port = .issue (.command w) :: rest → s'.result = t'.result)) ∧
    (∀ r, step s = .fault r → step t = .fault r)

/-- R39: START forgets everything but the parameters: from any two states of instances with the same parameters it leads
to states that nothing but free values and the host's next commands can tell apart. -/
def Obligations.StartForgetsHistory : Prop :=
  ∀ s t s' t' : State, s.params = t.params → s.freeCount = t.freeCount → s.port = t.port →
    exec .start s = .next s' → exec .start t = .next t' → SameLive s' t'

/-! ## Whole operations -/

/-- R169: the round trip. When the command sequence of one encode operation, run from any state, ends in DONE, the whole
output is readable and the reference decoder, with any component 4 it gives the real colours, decodes it to as many
pixels as were scanned: each sentinel as itself, each real colour with its R, G and B and a component 4 of the decoder's.
(The bound keeps the lengths in 32 bits: log entry 8.) -/
def Obligations.OperationRoundTrips : Prop :=
  ∀ (s t : State) (pixels : List Pixel), pixels.length + 128 ≤ 2 ^ 32 → s.port = encodeOperation pixels →
    run (pixels.length + 2) s = .next t → t.state = .done →
    ∃ bytes, outView t = some bytes ∧
      ∀ c4 : Nat → Byte, ∃ decoded, refDecode c4 bytes = .ok decoded ∧
        List.Forall₂ (decodesTo c4) (scannedPixels pixels) decoded

/-- R110: the palette ceiling. With an unlimited token buffer and sentinel padding, an encode operation, run from any
state, always runs to its end; with at most 7 distinct real colours it ends in DONE, and with 8 or more in ERROR with
PALETTE_FULL and no output. -/
def Obligations.PaletteCeilingDecidesOutcome : Prop :=
  ∀ (s : State) (pixels : List Pixel), s.params = { padPolicy := .padSentinel, tokCap := .unbounded } →
    s.port = encodeOperation pixels →
    ∃ t, run (pixels.length + 2) s = .next t ∧
      ((firstSeen pixels).length ≤ 7 → t.state = .done ∧ t.err = .none) ∧
      (8 ≤ (firstSeen pixels).length →
        t.state = .error ∧ t.err = .paletteFull ∧ t.outLen = 0#32 ∧ t.palSize = 8#4)

/-- R105: when an operation ends in DONE, the registry's entries after the sentinel are the distinct real colours pushed,
in the order of their first occurrence in the input. -/
def Obligations.RegistryHoldsColoursInFirstSeenOrder : Prop :=
  ∀ (s t : State) (pixels : List Pixel), s.port = encodeOperation pixels →
    run (pixels.length + 2) s = .next t → t.state = .done →
    t.palSize.toNat = (firstSeen pixels).length + 1 ∧
    ∀ k, k < (firstSeen pixels).length → palAt t (k + 1) = (firstSeen pixels)[k]?
end

