-- ==== Sys2Proof/Laws/Memory.lean ====
section
/-! SUPPORT. The laws of TOKBUF: a read after a write, and the canonical form. -/

namespace Sys2Proof.Machine

@[simp] theorem Memory.read_nil (a : Nat) : Memory.read [] a = none := rfl

theorem Memory.read_write_same (m : Memory) (a : Nat) (b : Byte) :
    Memory.read (Memory.write m a b) a = some b := by
  induction m with
  | nil => simp [Memory.write, Memory.read]
  | cons c m ih =>
    obtain ⟨x, y⟩ := c
    unfold Memory.write
    split
    · simp [Memory.read]
    · split
      · simp [Memory.read]
      · have : x ≠ a := by omega
        simp [Memory.read, this, ih]

theorem Memory.read_write_other (m : Memory) {a a' : Nat} (b : Byte) (h : a' ≠ a) :
    Memory.read (Memory.write m a b) a' = Memory.read m a' := by
  induction m with
  | nil => simp [Memory.write, Memory.read, h.symm]
  | cons c m ih =>
    obtain ⟨x, y⟩ := c
    unfold Memory.write
    split
    · simp [Memory.read, h.symm]
    · split
      · subst_vars
        simp [Memory.read, h.symm]
      · simp only [Memory.read]
        split <;> simp [ih]

/-- A read after a write, in one lemma. -/
theorem Memory.read_write (m : Memory) (a a' : Nat) (b : Byte) :
    Memory.read (Memory.write m a b) a' = if a' = a then some b else Memory.read m a' := by
  split
  · subst_vars
    exact Memory.read_write_same m _ b
  · exact Memory.read_write_other m b ‹_›

/-- A write keeps every index of a canonical memory above what lay below all of them. -/
theorem Memory.write_head_lt {m : Memory} {x a : Nat} {y b : Byte} (hx : x < a)
    (h : Memory.wf ((x, y) :: m) = true) (ih : Memory.wf (Memory.write m a b) = true) :
    Memory.wf ((x, y) :: Memory.write m a b) = true := by
  cases m with
  | nil => simp [Memory.write, Memory.wf, hx]
  | cons d m =>
    obtain ⟨u, v⟩ := d
    unfold Memory.write at ih ⊢
    simp only [Memory.wf, Bool.and_eq_true, decide_eq_true_eq] at h
    split
    · rename_i hlt
      rw [if_pos hlt] at ih
      simp only [Memory.wf, Bool.and_eq_true, decide_eq_true_eq] at ih ⊢
      exact ⟨hx, ih⟩
    · split
      · rename_i hlt heq
        rw [if_neg hlt, if_pos heq] at ih
        simp only [Memory.wf, Bool.and_eq_true, decide_eq_true_eq]
        exact ⟨hx, ih⟩
      · rename_i hlt heq
        rw [if_neg hlt, if_neg heq] at ih
        simp only [Memory.wf, Bool.and_eq_true, decide_eq_true_eq]
        exact ⟨h.1, ih⟩

/-- A write keeps the canonical form. -/
theorem Memory.wf_write {m : Memory} (a : Nat) (b : Byte) (h : Memory.wf m = true) :
    Memory.wf (Memory.write m a b) = true := by
  induction m with
  | nil => rfl
  | cons c m ih =>
    obtain ⟨x, y⟩ := c
    have hm : Memory.wf m = true := by
      cases m with
      | nil => rfl
      | cons d m => simp only [Memory.wf, Bool.and_eq_true] at h; exact h.2
    by_cases hlt : a < x
    · rw [Memory.write, if_pos hlt]
      simp only [Memory.wf, Bool.and_eq_true, decide_eq_true_eq]
      exact ⟨hlt, h⟩
    · by_cases heq : a = x
      · subst heq
        rw [Memory.write, if_neg hlt, if_pos rfl]
        cases m with
        | nil => rfl
        | cons d m => simpa [Memory.wf] using h
      · rw [Memory.write, if_neg hlt, if_neg heq]
        exact Memory.write_head_lt (by omega) h (ih hm)

end Sys2Proof.Machine
end

