-- ==== Sys2Proof/Laws/State.lean ====
section
/-! SUPPORT. The fields of State after each named update: one lemma per field per update, true by rfl. Generated from the
definitions of Machine/Ops.lean, Machine/Registry.lean, Machine/Scan.lean and Machine/Stream.lean. -/

namespace Sys2Proof.Machine

variable (s : State)

/-! ### setTokLen -/

@[simp] theorem setTokLen_params (n : Nat) : (setTokLen n s).params = s.params := rfl
@[simp] theorem setTokLen_state (n : Nat) : (setTokLen n s).state = s.state := rfl
@[simp] theorem setTokLen_err (n : Nat) : (setTokLen n s).err = s.err := rfl
@[simp] theorem setTokLen_rej (n : Nat) : (setTokLen n s).rej = s.rej := rfl
@[simp] theorem setTokLen_pal (n : Nat) : (setTokLen n s).pal = s.pal := rfl
@[simp] theorem setTokLen_palSize (n : Nat) : (setTokLen n s).palSize = s.palSize := rfl
@[simp] theorem setTokLen_chunkBuf (n : Nat) : (setTokLen n s).chunkBuf = s.chunkBuf := rfl
@[simp] theorem setTokLen_fill (n : Nat) : (setTokLen n s).fill = s.fill := rfl
@[simp] theorem setTokLen_head (n : Nat) : (setTokLen n s).head = s.head := rfl
@[simp] theorem setTokLen_tail (n : Nat) : (setTokLen n s).tail = s.tail := rfl
@[simp] theorem setTokLen_tokBuf (n : Nat) : (setTokLen n s).tokBuf = s.tokBuf := rfl
@[simp] theorem setTokLen_tokLen (n : Nat) : (setTokLen n s).tokLen = lengthValue n s := rfl
@[simp] theorem setTokLen_outLen (n : Nat) : (setTokLen n s).outLen = s.outLen := rfl
@[simp] theorem setTokLen_outRd (n : Nat) : (setTokLen n s).outRd = s.outRd := rfl
@[simp] theorem setTokLen_chunks (n : Nat) : (setTokLen n s).chunks = s.chunks := rfl
@[simp] theorem setTokLen_cmd (n : Nat) : (setTokLen n s).cmd = s.cmd := rfl
@[simp] theorem setTokLen_data (n : Nat) : (setTokLen n s).data = s.data := rfl
@[simp] theorem setTokLen_result (n : Nat) : (setTokLen n s).result = s.result := rfl
@[simp] theorem setTokLen_freeCount (n : Nat) : (setTokLen n s).freeCount = freeCountAfter n s := rfl
@[simp] theorem setTokLen_port (n : Nat) : (setTokLen n s).port = s.port := rfl

/-! ### setOutLen -/

@[simp] theorem setOutLen_params (n : Nat) : (setOutLen n s).params = s.params := rfl
@[simp] theorem setOutLen_state (n : Nat) : (setOutLen n s).state = s.state := rfl
@[simp] theorem setOutLen_err (n : Nat) : (setOutLen n s).err = s.err := rfl
@[simp] theorem setOutLen_rej (n : Nat) : (setOutLen n s).rej = s.rej := rfl
@[simp] theorem setOutLen_pal (n : Nat) : (setOutLen n s).pal = s.pal := rfl
@[simp] theorem setOutLen_palSize (n : Nat) : (setOutLen n s).palSize = s.palSize := rfl
@[simp] theorem setOutLen_chunkBuf (n : Nat) : (setOutLen n s).chunkBuf = s.chunkBuf := rfl
@[simp] theorem setOutLen_fill (n : Nat) : (setOutLen n s).fill = s.fill := rfl
@[simp] theorem setOutLen_head (n : Nat) : (setOutLen n s).head = s.head := rfl
@[simp] theorem setOutLen_tail (n : Nat) : (setOutLen n s).tail = s.tail := rfl
@[simp] theorem setOutLen_tokBuf (n : Nat) : (setOutLen n s).tokBuf = s.tokBuf := rfl
@[simp] theorem setOutLen_tokLen (n : Nat) : (setOutLen n s).tokLen = s.tokLen := rfl
@[simp] theorem setOutLen_outLen (n : Nat) : (setOutLen n s).outLen = lengthValue n s := rfl
@[simp] theorem setOutLen_outRd (n : Nat) : (setOutLen n s).outRd = s.outRd := rfl
@[simp] theorem setOutLen_chunks (n : Nat) : (setOutLen n s).chunks = s.chunks := rfl
@[simp] theorem setOutLen_cmd (n : Nat) : (setOutLen n s).cmd = s.cmd := rfl
@[simp] theorem setOutLen_data (n : Nat) : (setOutLen n s).data = s.data := rfl
@[simp] theorem setOutLen_result (n : Nat) : (setOutLen n s).result = s.result := rfl
@[simp] theorem setOutLen_freeCount (n : Nat) : (setOutLen n s).freeCount = freeCountAfter n s := rfl
@[simp] theorem setOutLen_port (n : Nat) : (setOutLen n s).port = s.port := rfl

/-! ### setOutRd -/

@[simp] theorem setOutRd_params (n : Nat) : (setOutRd n s).params = s.params := rfl
@[simp] theorem setOutRd_state (n : Nat) : (setOutRd n s).state = s.state := rfl
@[simp] theorem setOutRd_err (n : Nat) : (setOutRd n s).err = s.err := rfl
@[simp] theorem setOutRd_rej (n : Nat) : (setOutRd n s).rej = s.rej := rfl
@[simp] theorem setOutRd_pal (n : Nat) : (setOutRd n s).pal = s.pal := rfl
@[simp] theorem setOutRd_palSize (n : Nat) : (setOutRd n s).palSize = s.palSize := rfl
@[simp] theorem setOutRd_chunkBuf (n : Nat) : (setOutRd n s).chunkBuf = s.chunkBuf := rfl
@[simp] theorem setOutRd_fill (n : Nat) : (setOutRd n s).fill = s.fill := rfl
@[simp] theorem setOutRd_head (n : Nat) : (setOutRd n s).head = s.head := rfl
@[simp] theorem setOutRd_tail (n : Nat) : (setOutRd n s).tail = s.tail := rfl
@[simp] theorem setOutRd_tokBuf (n : Nat) : (setOutRd n s).tokBuf = s.tokBuf := rfl
@[simp] theorem setOutRd_tokLen (n : Nat) : (setOutRd n s).tokLen = s.tokLen := rfl
@[simp] theorem setOutRd_outLen (n : Nat) : (setOutRd n s).outLen = s.outLen := rfl
@[simp] theorem setOutRd_outRd (n : Nat) : (setOutRd n s).outRd = lengthValue n s := rfl
@[simp] theorem setOutRd_chunks (n : Nat) : (setOutRd n s).chunks = s.chunks := rfl
@[simp] theorem setOutRd_cmd (n : Nat) : (setOutRd n s).cmd = s.cmd := rfl
@[simp] theorem setOutRd_data (n : Nat) : (setOutRd n s).data = s.data := rfl
@[simp] theorem setOutRd_result (n : Nat) : (setOutRd n s).result = s.result := rfl
@[simp] theorem setOutRd_freeCount (n : Nat) : (setOutRd n s).freeCount = freeCountAfter n s := rfl
@[simp] theorem setOutRd_port (n : Nat) : (setOutRd n s).port = s.port := rfl

/-! ### appendByte -/

@[simp] theorem appendByte_params (b : Byte) : (appendByte s b).params = s.params := rfl
@[simp] theorem appendByte_state (b : Byte) : (appendByte s b).state = s.state := rfl
@[simp] theorem appendByte_err (b : Byte) : (appendByte s b).err = s.err := rfl
@[simp] theorem appendByte_rej (b : Byte) : (appendByte s b).rej = s.rej := rfl
@[simp] theorem appendByte_pal (b : Byte) : (appendByte s b).pal = s.pal := rfl
@[simp] theorem appendByte_palSize (b : Byte) : (appendByte s b).palSize = s.palSize := rfl
@[simp] theorem appendByte_chunkBuf (b : Byte) : (appendByte s b).chunkBuf = s.chunkBuf := rfl
@[simp] theorem appendByte_fill (b : Byte) : (appendByte s b).fill = s.fill := rfl
@[simp] theorem appendByte_head (b : Byte) : (appendByte s b).head = s.head := rfl
@[simp] theorem appendByte_tail (b : Byte) : (appendByte s b).tail = s.tail := rfl
@[simp] theorem appendByte_tokBuf (b : Byte) : (appendByte s b).tokBuf = Memory.write s.tokBuf s.tokLen.toNat b := rfl
@[simp] theorem appendByte_tokLen (b : Byte) : (appendByte s b).tokLen = lengthValue (s.tokLen.toNat + 1) s := rfl
@[simp] theorem appendByte_outLen (b : Byte) : (appendByte s b).outLen = s.outLen := rfl
@[simp] theorem appendByte_outRd (b : Byte) : (appendByte s b).outRd = s.outRd := rfl
@[simp] theorem appendByte_chunks (b : Byte) : (appendByte s b).chunks = s.chunks := rfl
@[simp] theorem appendByte_cmd (b : Byte) : (appendByte s b).cmd = s.cmd := rfl
@[simp] theorem appendByte_data (b : Byte) : (appendByte s b).data = s.data := rfl
@[simp] theorem appendByte_result (b : Byte) : (appendByte s b).result = s.result := rfl
@[simp] theorem appendByte_freeCount (b : Byte) : (appendByte s b).freeCount = freeCountAfter (s.tokLen.toNat + 1) s := rfl
@[simp] theorem appendByte_port (b : Byte) : (appendByte s b).port = s.port := rfl

/-! ### storePixel -/

@[simp] theorem storePixel_params (p : Pixel) : (storePixel p s).params = s.params := rfl
@[simp] theorem storePixel_state (p : Pixel) : (storePixel p s).state = s.state := rfl
@[simp] theorem storePixel_err (p : Pixel) : (storePixel p s).err = s.err := rfl
@[simp] theorem storePixel_rej (p : Pixel) : (storePixel p s).rej = s.rej := rfl
@[simp] theorem storePixel_pal (p : Pixel) : (storePixel p s).pal = s.pal := rfl
@[simp] theorem storePixel_palSize (p : Pixel) : (storePixel p s).palSize = s.palSize := rfl
@[simp] theorem storePixel_chunkBuf (p : Pixel) : (storePixel p s).chunkBuf = s.chunkBuf.setIfInBounds s.fill.toNat p := rfl
@[simp] theorem storePixel_fill (p : Pixel) : (storePixel p s).fill = s.fill + 1 := rfl
@[simp] theorem storePixel_head (p : Pixel) : (storePixel p s).head = s.head := rfl
@[simp] theorem storePixel_tail (p : Pixel) : (storePixel p s).tail = s.tail := rfl
@[simp] theorem storePixel_tokBuf (p : Pixel) : (storePixel p s).tokBuf = s.tokBuf := rfl
@[simp] theorem storePixel_tokLen (p : Pixel) : (storePixel p s).tokLen = s.tokLen := rfl
@[simp] theorem storePixel_outLen (p : Pixel) : (storePixel p s).outLen = s.outLen := rfl
@[simp] theorem storePixel_outRd (p : Pixel) : (storePixel p s).outRd = s.outRd := rfl
@[simp] theorem storePixel_chunks (p : Pixel) : (storePixel p s).chunks = s.chunks := rfl
@[simp] theorem storePixel_cmd (p : Pixel) : (storePixel p s).cmd = s.cmd := rfl
@[simp] theorem storePixel_data (p : Pixel) : (storePixel p s).data = s.data := rfl
@[simp] theorem storePixel_result (p : Pixel) : (storePixel p s).result = s.result := rfl
@[simp] theorem storePixel_freeCount (p : Pixel) : (storePixel p s).freeCount = s.freeCount := rfl
@[simp] theorem storePixel_port (p : Pixel) : (storePixel p s).port = s.port := rfl

/-! ### padChunk -/

@[simp] theorem padChunk_params : (padChunk s).params = s.params := rfl
@[simp] theorem padChunk_state : (padChunk s).state = s.state := rfl
@[simp] theorem padChunk_err : (padChunk s).err = s.err := rfl
@[simp] theorem padChunk_rej : (padChunk s).rej = s.rej := rfl
@[simp] theorem padChunk_pal : (padChunk s).pal = s.pal := rfl
@[simp] theorem padChunk_palSize : (padChunk s).palSize = s.palSize := rfl
@[simp] theorem padChunk_chunkBuf : (padChunk s).chunkBuf = paddedBuffer s.fill.toNat s.chunkBuf := rfl
@[simp] theorem padChunk_fill : (padChunk s).fill = 64#7 := rfl
@[simp] theorem padChunk_head : (padChunk s).head = s.head := rfl
@[simp] theorem padChunk_tail : (padChunk s).tail = s.tail := rfl
@[simp] theorem padChunk_tokBuf : (padChunk s).tokBuf = s.tokBuf := rfl
@[simp] theorem padChunk_tokLen : (padChunk s).tokLen = s.tokLen := rfl
@[simp] theorem padChunk_outLen : (padChunk s).outLen = s.outLen := rfl
@[simp] theorem padChunk_outRd : (padChunk s).outRd = s.outRd := rfl
@[simp] theorem padChunk_chunks : (padChunk s).chunks = s.chunks := rfl
@[simp] theorem padChunk_cmd : (padChunk s).cmd = s.cmd := rfl
@[simp] theorem padChunk_data : (padChunk s).data = s.data := rfl
@[simp] theorem padChunk_result : (padChunk s).result = s.result := rfl
@[simp] theorem padChunk_freeCount : (padChunk s).freeCount = s.freeCount := rfl
@[simp] theorem padChunk_port : (padChunk s).port = s.port := rfl

/-! ### writePal -/

@[simp] theorem writePal_params (k : Nat) (p : Pixel) : (writePal k p s).params = s.params := rfl
@[simp] theorem writePal_state (k : Nat) (p : Pixel) : (writePal k p s).state = s.state := rfl
@[simp] theorem writePal_err (k : Nat) (p : Pixel) : (writePal k p s).err = s.err := rfl
@[simp] theorem writePal_rej (k : Nat) (p : Pixel) : (writePal k p s).rej = s.rej := rfl
@[simp] theorem writePal_pal (k : Nat) (p : Pixel) : (writePal k p s).pal = if k = 0 then s.pal else s.pal.setIfInBounds (k - 1) p := rfl
@[simp] theorem writePal_palSize (k : Nat) (p : Pixel) : (writePal k p s).palSize = s.palSize := rfl
@[simp] theorem writePal_chunkBuf (k : Nat) (p : Pixel) : (writePal k p s).chunkBuf = s.chunkBuf := rfl
@[simp] theorem writePal_fill (k : Nat) (p : Pixel) : (writePal k p s).fill = s.fill := rfl
@[simp] theorem writePal_head (k : Nat) (p : Pixel) : (writePal k p s).head = s.head := rfl
@[simp] theorem writePal_tail (k : Nat) (p : Pixel) : (writePal k p s).tail = s.tail := rfl
@[simp] theorem writePal_tokBuf (k : Nat) (p : Pixel) : (writePal k p s).tokBuf = s.tokBuf := rfl
@[simp] theorem writePal_tokLen (k : Nat) (p : Pixel) : (writePal k p s).tokLen = s.tokLen := rfl
@[simp] theorem writePal_outLen (k : Nat) (p : Pixel) : (writePal k p s).outLen = s.outLen := rfl
@[simp] theorem writePal_outRd (k : Nat) (p : Pixel) : (writePal k p s).outRd = s.outRd := rfl
@[simp] theorem writePal_chunks (k : Nat) (p : Pixel) : (writePal k p s).chunks = s.chunks := rfl
@[simp] theorem writePal_cmd (k : Nat) (p : Pixel) : (writePal k p s).cmd = s.cmd := rfl
@[simp] theorem writePal_data (k : Nat) (p : Pixel) : (writePal k p s).data = s.data := rfl
@[simp] theorem writePal_result (k : Nat) (p : Pixel) : (writePal k p s).result = s.result := rfl
@[simp] theorem writePal_freeCount (k : Nat) (p : Pixel) : (writePal k p s).freeCount = s.freeCount := rfl
@[simp] theorem writePal_port (k : Nat) (p : Pixel) : (writePal k p s).port = s.port := rfl

/-! ### insertEntry -/

@[simp] theorem insertEntry_params (p : Pixel) : (insertEntry p s).params = s.params := rfl
@[simp] theorem insertEntry_state (p : Pixel) : (insertEntry p s).state = s.state := rfl
@[simp] theorem insertEntry_err (p : Pixel) : (insertEntry p s).err = s.err := rfl
@[simp] theorem insertEntry_rej (p : Pixel) : (insertEntry p s).rej = s.rej := rfl
@[simp] theorem insertEntry_pal (p : Pixel) : (insertEntry p s).pal = (writePal s.palSize.toNat p s).pal := rfl
@[simp] theorem insertEntry_palSize (p : Pixel) : (insertEntry p s).palSize = s.palSize + 1 := rfl
@[simp] theorem insertEntry_chunkBuf (p : Pixel) : (insertEntry p s).chunkBuf = s.chunkBuf := rfl
@[simp] theorem insertEntry_fill (p : Pixel) : (insertEntry p s).fill = s.fill := rfl
@[simp] theorem insertEntry_head (p : Pixel) : (insertEntry p s).head = s.head := rfl
@[simp] theorem insertEntry_tail (p : Pixel) : (insertEntry p s).tail = s.tail := rfl
@[simp] theorem insertEntry_tokBuf (p : Pixel) : (insertEntry p s).tokBuf = s.tokBuf := rfl
@[simp] theorem insertEntry_tokLen (p : Pixel) : (insertEntry p s).tokLen = s.tokLen := rfl
@[simp] theorem insertEntry_outLen (p : Pixel) : (insertEntry p s).outLen = s.outLen := rfl
@[simp] theorem insertEntry_outRd (p : Pixel) : (insertEntry p s).outRd = s.outRd := rfl
@[simp] theorem insertEntry_chunks (p : Pixel) : (insertEntry p s).chunks = s.chunks := rfl
@[simp] theorem insertEntry_cmd (p : Pixel) : (insertEntry p s).cmd = s.cmd := rfl
@[simp] theorem insertEntry_data (p : Pixel) : (insertEntry p s).data = s.data := rfl
@[simp] theorem insertEntry_result (p : Pixel) : (insertEntry p s).result = s.result := rfl
@[simp] theorem insertEntry_freeCount (p : Pixel) : (insertEntry p s).freeCount = s.freeCount := rfl
@[simp] theorem insertEntry_port (p : Pixel) : (insertEntry p s).port = s.port := rfl

/-! ### setCursors -/

@[simp] theorem setCursors_params (h t : Nat) : (setCursors h t s).params = s.params := rfl
@[simp] theorem setCursors_state (h t : Nat) : (setCursors h t s).state = s.state := rfl
@[simp] theorem setCursors_err (h t : Nat) : (setCursors h t s).err = s.err := rfl
@[simp] theorem setCursors_rej (h t : Nat) : (setCursors h t s).rej = s.rej := rfl
@[simp] theorem setCursors_pal (h t : Nat) : (setCursors h t s).pal = s.pal := rfl
@[simp] theorem setCursors_palSize (h t : Nat) : (setCursors h t s).palSize = s.palSize := rfl
@[simp] theorem setCursors_chunkBuf (h t : Nat) : (setCursors h t s).chunkBuf = s.chunkBuf := rfl
@[simp] theorem setCursors_fill (h t : Nat) : (setCursors h t s).fill = s.fill := rfl
@[simp] theorem setCursors_head (h t : Nat) : (setCursors h t s).head = BitVec.ofNat 7 h := rfl
@[simp] theorem setCursors_tail (h t : Nat) : (setCursors h t s).tail = BitVec.ofNat 6 t := rfl
@[simp] theorem setCursors_tokBuf (h t : Nat) : (setCursors h t s).tokBuf = s.tokBuf := rfl
@[simp] theorem setCursors_tokLen (h t : Nat) : (setCursors h t s).tokLen = s.tokLen := rfl
@[simp] theorem setCursors_outLen (h t : Nat) : (setCursors h t s).outLen = s.outLen := rfl
@[simp] theorem setCursors_outRd (h t : Nat) : (setCursors h t s).outRd = s.outRd := rfl
@[simp] theorem setCursors_chunks (h t : Nat) : (setCursors h t s).chunks = s.chunks := rfl
@[simp] theorem setCursors_cmd (h t : Nat) : (setCursors h t s).cmd = s.cmd := rfl
@[simp] theorem setCursors_data (h t : Nat) : (setCursors h t s).data = s.data := rfl
@[simp] theorem setCursors_result (h t : Nat) : (setCursors h t s).result = s.result := rfl
@[simp] theorem setCursors_freeCount (h t : Nat) : (setCursors h t s).freeCount = s.freeCount := rfl
@[simp] theorem setCursors_port (h t : Nat) : (setCursors h t s).port = s.port := rfl

/-! ### completeChunk -/

@[simp] theorem completeChunk_params : (completeChunk s).params = s.params := rfl
@[simp] theorem completeChunk_state : (completeChunk s).state = s.state := rfl
@[simp] theorem completeChunk_err : (completeChunk s).err = s.err := rfl
@[simp] theorem completeChunk_rej : (completeChunk s).rej = s.rej := rfl
@[simp] theorem completeChunk_pal : (completeChunk s).pal = s.pal := rfl
@[simp] theorem completeChunk_palSize : (completeChunk s).palSize = s.palSize := rfl
@[simp] theorem completeChunk_chunkBuf : (completeChunk s).chunkBuf = s.chunkBuf := rfl
@[simp] theorem completeChunk_fill : (completeChunk s).fill = 0 := rfl
@[simp] theorem completeChunk_head : (completeChunk s).head = s.head := rfl
@[simp] theorem completeChunk_tail : (completeChunk s).tail = s.tail := rfl
@[simp] theorem completeChunk_tokBuf : (completeChunk s).tokBuf = s.tokBuf := rfl
@[simp] theorem completeChunk_tokLen : (completeChunk s).tokLen = s.tokLen := rfl
@[simp] theorem completeChunk_outLen : (completeChunk s).outLen = s.outLen := rfl
@[simp] theorem completeChunk_outRd : (completeChunk s).outRd = s.outRd := rfl
@[simp] theorem completeChunk_chunks : (completeChunk s).chunks = s.chunks + 1 := rfl
@[simp] theorem completeChunk_cmd : (completeChunk s).cmd = s.cmd := rfl
@[simp] theorem completeChunk_data : (completeChunk s).data = s.data := rfl
@[simp] theorem completeChunk_result : (completeChunk s).result = s.result := rfl
@[simp] theorem completeChunk_freeCount : (completeChunk s).freeCount = s.freeCount := rfl
@[simp] theorem completeChunk_port : (completeChunk s).port = s.port := rfl

/-! ### answer -/

@[simp] theorem answer_params (v : ResultWord) : (answer v s).params = s.params := rfl
@[simp] theorem answer_state (v : ResultWord) : (answer v s).state = s.state := rfl
@[simp] theorem answer_err (v : ResultWord) : (answer v s).err = s.err := rfl
@[simp] theorem answer_rej (v : ResultWord) : (answer v s).rej = s.rej := rfl
@[simp] theorem answer_pal (v : ResultWord) : (answer v s).pal = s.pal := rfl
@[simp] theorem answer_palSize (v : ResultWord) : (answer v s).palSize = s.palSize := rfl
@[simp] theorem answer_chunkBuf (v : ResultWord) : (answer v s).chunkBuf = s.chunkBuf := rfl
@[simp] theorem answer_fill (v : ResultWord) : (answer v s).fill = s.fill := rfl
@[simp] theorem answer_head (v : ResultWord) : (answer v s).head = s.head := rfl
@[simp] theorem answer_tail (v : ResultWord) : (answer v s).tail = s.tail := rfl
@[simp] theorem answer_tokBuf (v : ResultWord) : (answer v s).tokBuf = s.tokBuf := rfl
@[simp] theorem answer_tokLen (v : ResultWord) : (answer v s).tokLen = s.tokLen := rfl
@[simp] theorem answer_outLen (v : ResultWord) : (answer v s).outLen = s.outLen := rfl
@[simp] theorem answer_outRd (v : ResultWord) : (answer v s).outRd = s.outRd := rfl
@[simp] theorem answer_chunks (v : ResultWord) : (answer v s).chunks = s.chunks := rfl
@[simp] theorem answer_cmd (v : ResultWord) : (answer v s).cmd = s.cmd := rfl
@[simp] theorem answer_data (v : ResultWord) : (answer v s).data = s.data := rfl
@[simp] theorem answer_result (v : ResultWord) : (answer v s).result = v := rfl
@[simp] theorem answer_freeCount (v : ResultWord) : (answer v s).freeCount = s.freeCount := rfl
@[simp] theorem answer_port (v : ResultWord) : (answer v s).port = s.port := rfl

/-! ### answerStatus -/

@[simp] theorem answerStatus_params : (answerStatus s).params = s.params := rfl
@[simp] theorem answerStatus_state : (answerStatus s).state = s.state := rfl
@[simp] theorem answerStatus_err : (answerStatus s).err = s.err := rfl
@[simp] theorem answerStatus_rej : (answerStatus s).rej = s.rej := rfl
@[simp] theorem answerStatus_pal : (answerStatus s).pal = s.pal := rfl
@[simp] theorem answerStatus_palSize : (answerStatus s).palSize = s.palSize := rfl
@[simp] theorem answerStatus_chunkBuf : (answerStatus s).chunkBuf = s.chunkBuf := rfl
@[simp] theorem answerStatus_fill : (answerStatus s).fill = s.fill := rfl
@[simp] theorem answerStatus_head : (answerStatus s).head = s.head := rfl
@[simp] theorem answerStatus_tail : (answerStatus s).tail = s.tail := rfl
@[simp] theorem answerStatus_tokBuf : (answerStatus s).tokBuf = s.tokBuf := rfl
@[simp] theorem answerStatus_tokLen : (answerStatus s).tokLen = s.tokLen := rfl
@[simp] theorem answerStatus_outLen : (answerStatus s).outLen = s.outLen := rfl
@[simp] theorem answerStatus_outRd : (answerStatus s).outRd = s.outRd := rfl
@[simp] theorem answerStatus_chunks : (answerStatus s).chunks = s.chunks := rfl
@[simp] theorem answerStatus_cmd : (answerStatus s).cmd = s.cmd := rfl
@[simp] theorem answerStatus_data : (answerStatus s).data = s.data := rfl
@[simp] theorem answerStatus_result : (answerStatus s).result = status s := rfl
@[simp] theorem answerStatus_freeCount : (answerStatus s).freeCount = s.freeCount := rfl
@[simp] theorem answerStatus_port : (answerStatus s).port = s.port := rfl

/-! ### setRej -/

@[simp] theorem setRej_params : (setRej s).params = s.params := rfl
@[simp] theorem setRej_state : (setRej s).state = s.state := rfl
@[simp] theorem setRej_err : (setRej s).err = s.err := rfl
@[simp] theorem setRej_rej : (setRej s).rej = true := rfl
@[simp] theorem setRej_pal : (setRej s).pal = s.pal := rfl
@[simp] theorem setRej_palSize : (setRej s).palSize = s.palSize := rfl
@[simp] theorem setRej_chunkBuf : (setRej s).chunkBuf = s.chunkBuf := rfl
@[simp] theorem setRej_fill : (setRej s).fill = s.fill := rfl
@[simp] theorem setRej_head : (setRej s).head = s.head := rfl
@[simp] theorem setRej_tail : (setRej s).tail = s.tail := rfl
@[simp] theorem setRej_tokBuf : (setRej s).tokBuf = s.tokBuf := rfl
@[simp] theorem setRej_tokLen : (setRej s).tokLen = s.tokLen := rfl
@[simp] theorem setRej_outLen : (setRej s).outLen = s.outLen := rfl
@[simp] theorem setRej_outRd : (setRej s).outRd = s.outRd := rfl
@[simp] theorem setRej_chunks : (setRej s).chunks = s.chunks := rfl
@[simp] theorem setRej_cmd : (setRej s).cmd = s.cmd := rfl
@[simp] theorem setRej_data : (setRej s).data = s.data := rfl
@[simp] theorem setRej_result : (setRej s).result = s.result := rfl
@[simp] theorem setRej_freeCount : (setRej s).freeCount = s.freeCount := rfl
@[simp] theorem setRej_port : (setRej s).port = s.port := rfl

/-! ### reject -/

@[simp] theorem reject_params : (reject s).params = s.params := rfl
@[simp] theorem reject_state : (reject s).state = s.state := rfl
@[simp] theorem reject_err : (reject s).err = s.err := rfl
@[simp] theorem reject_rej : (reject s).rej = true := rfl
@[simp] theorem reject_pal : (reject s).pal = s.pal := rfl
@[simp] theorem reject_palSize : (reject s).palSize = s.palSize := rfl
@[simp] theorem reject_chunkBuf : (reject s).chunkBuf = s.chunkBuf := rfl
@[simp] theorem reject_fill : (reject s).fill = s.fill := rfl
@[simp] theorem reject_head : (reject s).head = s.head := rfl
@[simp] theorem reject_tail : (reject s).tail = s.tail := rfl
@[simp] theorem reject_tokBuf : (reject s).tokBuf = s.tokBuf := rfl
@[simp] theorem reject_tokLen : (reject s).tokLen = s.tokLen := rfl
@[simp] theorem reject_outLen : (reject s).outLen = s.outLen := rfl
@[simp] theorem reject_outRd : (reject s).outRd = s.outRd := rfl
@[simp] theorem reject_chunks : (reject s).chunks = s.chunks := rfl
@[simp] theorem reject_cmd : (reject s).cmd = s.cmd := rfl
@[simp] theorem reject_data : (reject s).data = s.data := rfl
@[simp] theorem reject_result : (reject s).result = status (setRej s) := rfl
@[simp] theorem reject_freeCount : (reject s).freeCount = s.freeCount := rfl
@[simp] theorem reject_port : (reject s).port = s.port := rfl

/-! ### openOperation -/

@[simp] theorem openOperation_params : (openOperation s).params = s.params := rfl
@[simp] theorem openOperation_state : (openOperation s).state = .accepting := rfl
@[simp] theorem openOperation_err : (openOperation s).err = .none := rfl
@[simp] theorem openOperation_rej : (openOperation s).rej = false := rfl
@[simp] theorem openOperation_pal : (openOperation s).pal = s.pal := rfl
@[simp] theorem openOperation_palSize : (openOperation s).palSize = 1 := rfl
@[simp] theorem openOperation_chunkBuf : (openOperation s).chunkBuf = s.chunkBuf := rfl
@[simp] theorem openOperation_fill : (openOperation s).fill = 0 := rfl
@[simp] theorem openOperation_head : (openOperation s).head = s.head := rfl
@[simp] theorem openOperation_tail : (openOperation s).tail = s.tail := rfl
@[simp] theorem openOperation_tokBuf : (openOperation s).tokBuf = s.tokBuf := rfl
@[simp] theorem openOperation_tokLen : (openOperation s).tokLen = 0 := rfl
@[simp] theorem openOperation_outLen : (openOperation s).outLen = 0 := rfl
@[simp] theorem openOperation_outRd : (openOperation s).outRd = 0 := rfl
@[simp] theorem openOperation_chunks : (openOperation s).chunks = 0 := rfl
@[simp] theorem openOperation_cmd : (openOperation s).cmd = s.cmd := rfl
@[simp] theorem openOperation_data : (openOperation s).data = s.data := rfl
@[simp] theorem openOperation_result : (openOperation s).result = s.result := rfl
@[simp] theorem openOperation_freeCount : (openOperation s).freeCount = s.freeCount := rfl
@[simp] theorem openOperation_port : (openOperation s).port = s.port := rfl

/-! ### finishOperation -/

@[simp] theorem finishOperation_params : (finishOperation s).params = s.params := rfl
@[simp] theorem finishOperation_state : (finishOperation s).state = .done := rfl
@[simp] theorem finishOperation_err : (finishOperation s).err = s.err := rfl
@[simp] theorem finishOperation_rej : (finishOperation s).rej = s.rej := rfl
@[simp] theorem finishOperation_pal : (finishOperation s).pal = s.pal := rfl
@[simp] theorem finishOperation_palSize : (finishOperation s).palSize = s.palSize := rfl
@[simp] theorem finishOperation_chunkBuf : (finishOperation s).chunkBuf = s.chunkBuf := rfl
@[simp] theorem finishOperation_fill : (finishOperation s).fill = s.fill := rfl
@[simp] theorem finishOperation_head : (finishOperation s).head = s.head := rfl
@[simp] theorem finishOperation_tail : (finishOperation s).tail = s.tail := rfl
@[simp] theorem finishOperation_tokBuf : (finishOperation s).tokBuf = s.tokBuf := rfl
@[simp] theorem finishOperation_tokLen : (finishOperation s).tokLen = s.tokLen := rfl
@[simp] theorem finishOperation_outLen : (finishOperation s).outLen = lengthValue (outputLength s) s := rfl
@[simp] theorem finishOperation_outRd : (finishOperation s).outRd = 0 := rfl
@[simp] theorem finishOperation_chunks : (finishOperation s).chunks = s.chunks := rfl
@[simp] theorem finishOperation_cmd : (finishOperation s).cmd = s.cmd := rfl
@[simp] theorem finishOperation_data : (finishOperation s).data = s.data := rfl
@[simp] theorem finishOperation_result : (finishOperation s).result = s.result := rfl
@[simp] theorem finishOperation_freeCount : (finishOperation s).freeCount = freeCountAfter (outputLength s) s := rfl
@[simp] theorem finishOperation_port : (finishOperation s).port = s.port := rfl

/-! ### errorEntry -/

@[simp] theorem errorEntry_params (c : ErrCode) : (errorEntry c s).params = s.params := rfl
@[simp] theorem errorEntry_state (c : ErrCode) : (errorEntry c s).state = .error := rfl
@[simp] theorem errorEntry_err (c : ErrCode) : (errorEntry c s).err = c := rfl
@[simp] theorem errorEntry_rej (c : ErrCode) : (errorEntry c s).rej = s.rej := rfl
@[simp] theorem errorEntry_pal (c : ErrCode) : (errorEntry c s).pal = s.pal := rfl
@[simp] theorem errorEntry_palSize (c : ErrCode) : (errorEntry c s).palSize = s.palSize := rfl
@[simp] theorem errorEntry_chunkBuf (c : ErrCode) : (errorEntry c s).chunkBuf = s.chunkBuf := rfl
@[simp] theorem errorEntry_fill (c : ErrCode) : (errorEntry c s).fill = 0 := rfl
@[simp] theorem errorEntry_head (c : ErrCode) : (errorEntry c s).head = s.head := rfl
@[simp] theorem errorEntry_tail (c : ErrCode) : (errorEntry c s).tail = s.tail := rfl
@[simp] theorem errorEntry_tokBuf (c : ErrCode) : (errorEntry c s).tokBuf = s.tokBuf := rfl
@[simp] theorem errorEntry_tokLen (c : ErrCode) : (errorEntry c s).tokLen = 0 := rfl
@[simp] theorem errorEntry_outLen (c : ErrCode) : (errorEntry c s).outLen = 0 := rfl
@[simp] theorem errorEntry_outRd (c : ErrCode) : (errorEntry c s).outRd = 0 := rfl
@[simp] theorem errorEntry_chunks (c : ErrCode) : (errorEntry c s).chunks = s.chunks := rfl
@[simp] theorem errorEntry_cmd (c : ErrCode) : (errorEntry c s).cmd = s.cmd := rfl
@[simp] theorem errorEntry_data (c : ErrCode) : (errorEntry c s).data = s.data := rfl
@[simp] theorem errorEntry_freeCount (c : ErrCode) : (errorEntry c s).freeCount = s.freeCount := rfl
@[simp] theorem errorEntry_port (c : ErrCode) : (errorEntry c s).port = s.port := rfl

/-! ### takeIssue -/

@[simp] theorem takeIssue_params (f : Fetched) (rest : List PortEvent) : (takeIssue f rest s).params = s.params := by
  cases f <;> rfl
@[simp] theorem takeIssue_state (f : Fetched) (rest : List PortEvent) : (takeIssue f rest s).state = s.state := by
  cases f <;> rfl
@[simp] theorem takeIssue_err (f : Fetched) (rest : List PortEvent) : (takeIssue f rest s).err = s.err := by
  cases f <;> rfl
@[simp] theorem takeIssue_rej (f : Fetched) (rest : List PortEvent) : (takeIssue f rest s).rej = s.rej := by
  cases f <;> rfl
@[simp] theorem takeIssue_pal (f : Fetched) (rest : List PortEvent) : (takeIssue f rest s).pal = s.pal := by
  cases f <;> rfl
@[simp] theorem takeIssue_palSize (f : Fetched) (rest : List PortEvent) : (takeIssue f rest s).palSize = s.palSize := by
  cases f <;> rfl
@[simp] theorem takeIssue_chunkBuf (f : Fetched) (rest : List PortEvent) : (takeIssue f rest s).chunkBuf = s.chunkBuf := by
  cases f <;> rfl
@[simp] theorem takeIssue_fill (f : Fetched) (rest : List PortEvent) : (takeIssue f rest s).fill = s.fill := by
  cases f <;> rfl
@[simp] theorem takeIssue_head (f : Fetched) (rest : List PortEvent) : (takeIssue f rest s).head = s.head := by
  cases f <;> rfl
@[simp] theorem takeIssue_tail (f : Fetched) (rest : List PortEvent) : (takeIssue f rest s).tail = s.tail := by
  cases f <;> rfl
@[simp] theorem takeIssue_tokBuf (f : Fetched) (rest : List PortEvent) : (takeIssue f rest s).tokBuf = s.tokBuf := by
  cases f <;> rfl
@[simp] theorem takeIssue_tokLen (f : Fetched) (rest : List PortEvent) : (takeIssue f rest s).tokLen = s.tokLen := by
  cases f <;> rfl
@[simp] theorem takeIssue_outLen (f : Fetched) (rest : List PortEvent) : (takeIssue f rest s).outLen = s.outLen := by
  cases f <;> rfl
@[simp] theorem takeIssue_outRd (f : Fetched) (rest : List PortEvent) : (takeIssue f rest s).outRd = s.outRd := by
  cases f <;> rfl
@[simp] theorem takeIssue_chunks (f : Fetched) (rest : List PortEvent) : (takeIssue f rest s).chunks = s.chunks := by
  cases f <;> rfl
@[simp] theorem takeIssue_result (f : Fetched) (rest : List PortEvent) : (takeIssue f rest s).result = s.result := by
  cases f <;> rfl
@[simp] theorem takeIssue_freeCount (f : Fetched) (rest : List PortEvent) : (takeIssue f rest s).freeCount = s.freeCount := by
  cases f <;> rfl
@[simp] theorem takeIssue_port (f : Fetched) (rest : List PortEvent) : (takeIssue f rest s).port = rest := by
  cases f <;> rfl

/-! ### The status word -/

@[simp] theorem status_answer (v : ResultWord) : status (answer v s) = status s := rfl

@[simp] theorem realColours_answer (v : ResultWord) : realColours (answer v s) = realColours s := rfl

end Sys2Proof.Machine
end

