-- ==== Sys2Proof/Laws/Ops.lean ====
section
/-! SUPPORT. What the shared operations of Machine/Ops.lean and Machine/Operands.lean do. -/

namespace Sys2Proof.Machine

/-! ## Length registers -/

theorem lengthValue_of_lt {n : Nat} (s : State) (h : n < 2 ^ 32) : lengthValue n s = BitVec.ofNat 32 n := if_pos h

theorem freeCountAfter_of_lt {n : Nat} (s : State) (h : n < 2 ^ 32) : freeCountAfter n s = s.freeCount := if_pos h

/-- A length register that 32 bits suffice for holds the number it was given. -/
theorem lengthValue_toNat {n : Nat} (s : State) (h : n < 2 ^ 32) : (lengthValue n s).toNat = n := by
  rw [lengthValue_of_lt s h, BitVec.toNat_ofNat, Nat.mod_eq_of_lt h]

/-- Whatever a length register holds, it is never above the number it was given. -/
theorem lengthValue_toNat_le (n : Nat) (s : State) : (lengthValue n s).toNat ≤ n := by
  by_cases h : n < 2 ^ 32
  · exact (lengthValue_toNat s h).le
  · have := (lengthValue n s).isLt
    omega

/-! ## Operation results -/

@[simp] theorem OpResult.andThen_ok {α β : Type} (a : α) (s : State) (f : α → State → OpResult β) :
    (OpResult.ok a s).andThen f = f a s := rfl

@[simp] theorem OpResult.andThen_raised {α β : Type} (c : ErrCode) (s : State) (f : α → State → OpResult β) :
    (OpResult.raised c s : OpResult α).andThen f = .raised c s := rfl

@[simp] theorem OpResult.final_ok {α : Type} (a : α) (s : State) : (OpResult.ok a s).final = s := rfl

@[simp] theorem OpResult.final_raised {α : Type} (c : ErrCode) (s : State) :
    (OpResult.raised c s : OpResult α).final = s := rfl

/-- A sequence that completes did both its parts. -/
theorem OpResult.andThen_eq_ok {α β : Type} {x : OpResult α} {f : α → State → OpResult β} {b : β} {t : State}
    (h : x.andThen f = .ok b t) : ∃ a s, x = .ok a s ∧ f a s = .ok b t := by
  cases x with
  | ok a s => exact ⟨a, s, rfl, h⟩
  | raised c s => cases h

/-- A sequence that raises did so in its first part, or in its second after the first was done. -/
theorem OpResult.andThen_eq_raised {α β : Type} {x : OpResult α} {f : α → State → OpResult β} {c : ErrCode} {t : State}
    (h : x.andThen f = .raised c t) : x = .raised c t ∨ ∃ a s, x = .ok a s ∧ f a s = .raised c t := by
  cases x with
  | ok a s => exact .inr ⟨a, s, rfl, h⟩
  | raised d s => cases h; exact .inl rfl

/-! ## The registry and the chunk buffer -/

@[simp] theorem palAt_zero (s : State) : palAt s 0 = some Config.sentinel := rfl

theorem palAt_succ (s : State) (k : Nat) : palAt s (k + 1) = s.pal[k]? := rfl

/-- PAL is read from the registry's storage alone. -/
theorem palAt_congr {s t : State} (h : s.pal = t.pal) (k : Nat) : palAt s k = palAt t k := by
  cases k <;> simp [palAt, h]

/-- CHUNK_BUF is read from the buffer alone. -/
theorem chunkAt_congr {s t : State} (h : s.chunkBuf = t.chunkBuf) : chunkAt s = chunkAt t := by
  funext j
  simp [chunkAt, h]

/-- An insert writes the entry at PAL_SIZE, if there is one, and no other. -/
theorem palAt_insertEntry (p : Pixel) (s : State) (k : Nat) :
    palAt (insertEntry p s) k =
      if k = s.palSize.toNat ∧ 1 ≤ k ∧ k ≤ 7 then some p else palAt s k := by
  cases k with
  | zero => simp
  | succ k =>
    simp only [palAt_succ, insertEntry_pal, writePal_pal]
    by_cases h0 : s.palSize.toNat = 0
    · rw [if_pos h0, if_neg (by omega)]
    · rw [if_neg h0, Vector.getElem?_setIfInBounds]
      by_cases hk : s.palSize.toNat - 1 = k
      · by_cases h7 : k < 7
        · rw [if_pos hk, if_pos (by omega), if_pos (by omega)]
        · rw [if_pos hk, if_neg (by omega), if_neg (by omega), Vector.getElem?_eq_none (by omega)]
      · rw [if_neg hk, if_neg (by omega)]

/-- PUSH_PIXEL's store writes the position FILL and no other (R51). -/
theorem chunkAt_storePixel (p : Pixel) (s : State) {j : Nat} (hj : j < 64) :
    chunkAt (storePixel p s) j = if j = s.fill.toNat then p else chunkAt s j := by
  simp only [chunkAt, storePixel_chunkBuf, Vector.getElem?_setIfInBounds]
  by_cases h : s.fill.toNat = j
  · rw [if_pos h, if_pos (by omega), if_pos h.symm]; rfl
  · rw [if_neg h, if_neg (fun e => h e.symm)]

/-- The padding writes the sentinel at FILL and above, and no other position (R186). -/
theorem chunkAt_padChunk (s : State) {j : Nat} (hj : j < 64) :
    chunkAt (padChunk s) j = if s.fill.toNat ≤ j then Config.sentinel else chunkAt s j := by
  simp only [chunkAt, padChunk_chunkBuf, paddedBuffer, Vector.getElem?_eq_getElem hj, Option.getD_some,
    Vector.getElem_mapIdx]

end Sys2Proof.Machine
end

