-- ==== Sys2Proof/Laws/Packer.lean ====
section
/-! SUPPORT. What EMIT_TOKEN can do (R150 to R155), and what appending bytes leaves as it was. -/

namespace Sys2Proof.Machine

@[simp] theorem appendBytes_nil (s : State) : appendBytes [] s = s := rfl

@[simp] theorem appendBytes_cons (b : Byte) (bs : List Byte) (s : State) :
    appendBytes (b :: bs) s = appendBytes bs (appendByte s b) := rfl

/-- The form decides the number of bytes (R151). -/
theorem packToken_length (i : PalIndex) (h t : Nat) :
    (packToken i h t).length = if t = 0 ∧ h < 16 then 1 else 2 := by
  by_cases hs : t = 0 ∧ h < 16 <;> simp [packToken, usesShortForm, hs]

/-- What EMIT_TOKEN can do: append the token's bytes; or raise, with the state as it was, the length error or, lengths
being right, the capacity error. -/
theorem emitToken_cases (i : PalIndex) (h t : Nat) (s : State) :
    (lengthsFit h t = true ∧ capFits s.params.tokCap (s.tokLen.toNat + (packToken i h t).length) = true ∧
      emitToken i h t s = .ok () (appendBytes (packToken i h t) s)) ∨
    (lengthsFit h t = true ∧ capFits s.params.tokCap (s.tokLen.toNat + (packToken i h t).length) = false ∧
      emitToken i h t s = .raised .outputOverflow s) ∨
    (lengthsFit h t = false ∧ emitToken i h t s = .raised .lengthAssert s) := by
  by_cases h1 : lengthsFit h t = true
  · by_cases h2 : capFits s.params.tokCap (s.tokLen.toNat + (packToken i h t).length) = true
    · exact .inl ⟨h1, h2, by simp [emitToken, h1, h2]⟩
    · exact .inr (.inl ⟨h1, by simpa using h2, by simp [emitToken, h1, h2]⟩)
  · exact .inr (.inr ⟨by simpa using h1, by simp [emitToken, h1]⟩)

/-- Appending bytes changes TOKBUF, TOK_LEN and the count of free values, and nothing else. -/
theorem appendBytes_frame (bs : List Byte) (s : State) :
    appendBytes bs s =
      { s with
        tokBuf := (appendBytes bs s).tokBuf
        tokLen := (appendBytes bs s).tokLen
        freeCount := (appendBytes bs s).freeCount } := by
  induction bs generalizing s with
  | nil => rfl
  | cons b bs ih =>
    rw [appendBytes_cons]
    conv_lhs => rw [ih]
    rfl

/-- Where 32 bits suffice, appending bytes moves TOK_LEN by their number and uses no free value. -/
theorem appendBytes_tokLen {bs : List Byte} {s : State} (h : s.tokLen.toNat + bs.length < 2 ^ 32) :
    (appendBytes bs s).tokLen.toNat = s.tokLen.toNat + bs.length ∧ (appendBytes bs s).freeCount = s.freeCount := by
  induction bs generalizing s with
  | nil => simp
  | cons b bs ih =>
    simp only [List.length_cons] at h
    have h1 : (appendByte s b).tokLen.toNat = s.tokLen.toNat + 1 := by
      rw [appendByte_tokLen]; exact lengthValue_toNat s (by omega)
    have h2 : (appendByte s b).freeCount = s.freeCount := by
      rw [appendByte_freeCount]; exact freeCountAfter_of_lt s (by omega)
    have := ih (s := appendByte s b) (by omega)
    rw [appendBytes_cons]
    constructor
    · rw [this.1, h1]; simp; omega
    · rw [this.2, h2]

/-- Where 32 bits suffice, the bytes appended stand at TOK_LEN and above, in order, and every other byte is as it was
(R153). -/
theorem appendBytes_read {bs : List Byte} {s : State} (h : s.tokLen.toNat + bs.length < 2 ^ 32) (a : Nat) :
    Memory.read (appendBytes bs s).tokBuf a =
      if s.tokLen.toNat ≤ a ∧ a < s.tokLen.toNat + bs.length then bs[a - s.tokLen.toNat]?
      else Memory.read s.tokBuf a := by
  induction bs generalizing s with
  | nil => simp
  | cons b bs ih =>
    simp only [List.length_cons] at h ⊢
    have h1 : (appendByte s b).tokLen.toNat = s.tokLen.toNat + 1 := by
      rw [appendByte_tokLen]; exact lengthValue_toNat s (by omega)
    rw [appendBytes_cons, ih (s := appendByte s b) (by omega), h1, appendByte_tokBuf, Memory.read_write]
    by_cases ha : a = s.tokLen.toNat
    · subst ha
      rw [if_neg (by omega), if_pos rfl, if_pos (by omega)]
      simp
    · by_cases hin : s.tokLen.toNat + 1 ≤ a ∧ a < s.tokLen.toNat + 1 + bs.length
      · rw [if_pos hin, if_pos (by omega)]
        have : a - s.tokLen.toNat = (a - (s.tokLen.toNat + 1)) + 1 := by omega
        rw [this, List.getElem?_cons_succ]
      · rw [if_neg hin, if_neg ha, if_neg (by omega)]

/-- Appending bytes keeps TOKBUF in its canonical form. -/
theorem appendBytes_wf {bs : List Byte} {s : State} (h : Memory.wf s.tokBuf = true) :
    Memory.wf (appendBytes bs s).tokBuf = true := by
  induction bs generalizing s with
  | nil => exact h
  | cons b bs ih =>
    rw [appendBytes_cons]
    exact ih (by rw [appendByte_tokBuf]; exact Memory.wf_write _ _ h)

end Sys2Proof.Machine
end

