-- ==== Sys2Proof/Laws/PerInstr.lean ====
section
/-! SUPPORT. The per-instruction family RowPattern: every instruction's word, as spec/opcode_table.json numbers its bits,
has the bits its row fixes. -/

namespace Sys2Proof.Laws.RowPattern

/-- The word of an instruction has its table row's fixed bits. -/
def Statement (i : Instr) : Prop := tableWord i &&& (tableRow i).mask = (tableRow i).pattern

theorem nop : Statement .nop := by unfold Statement; decide
theorem start : Statement .start := by unfold Statement; decide
theorem pushPixel (p : Pixel) : Statement (.pushPixel p) := by
  unfold Statement
  simp only [tableWord, tableRow, commandWord]
  have hmask : ∀ k : Fin 40, (0xFF#40).getLsbD k.val = decide (k.val < 8) := by decide
  have hpat : ∀ k : Fin 40, (0x02#40).getLsbD k.val = (decide (k.val < 8) && (0x02#8).getLsbD k.val) := by decide
  apply BitVec.eq_of_getLsbD_eq
  intro k hk
  rw [BitVec.getLsbD_and]
  refine Eq.trans ?_ (hpat ⟨k, hk⟩).symm
  rw [BitVec.getLsbD_append]
  refine Eq.trans (congrArg _ (hmask ⟨k, hk⟩)) ?_
  by_cases h8 : k < 8 <;> simp [h8]
theorem endInput : Statement .endInput := by unfold Statement; decide
theorem readOut : Statement .readOut := by unfold Statement; decide
theorem readOutLen : Statement .readOutLen := by unfold Statement; decide
theorem tokenShort (i : PalIndex) (h : BitVec 4) : Statement (.tokenShort i h) := by
  unfold Statement
  revert i h
  decide
theorem tokenLong (i : PalIndex) (h t : BitVec 6) : Statement (.tokenLong i h t) := by
  unfold Statement
  simp only [tableWord, tableRow, longWord]
  have hmask : ∀ k : Fin 40, (0x1000#40).getLsbD k.val = decide (k.val = 12) := by decide
  apply BitVec.eq_of_getLsbD_eq
  intro k hk
  rw [BitVec.getLsbD_and]
  refine Eq.trans (congrArg _ (hmask ⟨k, hk⟩)) (Eq.trans ?_ (hmask ⟨k, hk⟩).symm)
  by_cases h12 : k = 12
  · subst h12
    rw [BitVec.getLsbD_setWidth, BitVec.getLsbD_append, BitVec.getLsbD_append, BitVec.getLsbD_append]
    rfl
  · simp [h12]

end Sys2Proof.Laws.RowPattern
end

