-- ==== Sys2Proof/Laws/RefDecoder.lean ====
section
/-! SUPPORT. What the reference decoder does with a stream that goes on, said once (R165 to R168). -/

namespace Sys2Proof.Machine

/-- Reading a token looks at no byte behind it. -/
theorem readToken_append {b r : List Byte} {x : Nat × Nat × Nat} (h : readToken b = .ok (x, r)) (c : List Byte) :
    readToken (b ++ c) = .ok (x, r ++ c) := by
  cases b with
  | nil => simp [readToken] at h
  | cons b0 bs =>
    simp only [readToken, List.cons_append] at h ⊢
    by_cases hf : tokenFlag b0
    · rw [if_pos hf] at h ⊢
      cases bs with
      | nil => simp at h
      | cons b1 rest => simp only [Except.ok.injEq, Prod.mk.injEq] at h; obtain ⟨rfl, rfl⟩ := h; rfl
    · rw [if_neg hf] at h ⊢
      simp only [Except.ok.injEq, Prod.mk.injEq] at h
      obtain ⟨rfl, rfl⟩ := h
      rfl

/-- A token takes at least one byte. -/
theorem readToken_length {b r : List Byte} {x : Nat × Nat × Nat} (h : readToken b = .ok (x, r)) :
    r.length < b.length := by
  cases b with
  | nil => simp [readToken] at h
  | cons b0 bs =>
    simp only [readToken] at h
    by_cases hf : tokenFlag b0
    · rw [if_pos hf] at h
      cases bs with
      | nil => simp at h
      | cons b1 rest => simp only [Except.ok.injEq, Prod.mk.injEq] at h; obtain ⟨-, rfl⟩ := h; simp
    · rw [if_neg hf] at h
      simp only [Except.ok.injEq, Prod.mk.injEq] at h
      obtain ⟨-, rfl⟩ := h
      simp

/-- A whole palette table is read alike whatever follows it (R166). -/
theorem readTable_whole (c4 : Nat → Byte) (n k : Nat) {table : List Byte} (h : table.length = 3 * n) :
    ∃ ps, ∀ rest, readTable c4 n k (table ++ rest) = .ok (ps, rest) := by
  induction n generalizing k table with
  | zero =>
    obtain rfl : table = [] := List.length_eq_zero_iff.1 h
    exact ⟨[], fun rest => rfl⟩
  | succ n ih =>
    match table, h with
    | r :: g :: b :: table, h =>
      obtain ⟨ps, e⟩ := ih (k + 1) (table := table) (by simp at h; omega)
      exact ⟨pixelWord r g b (c4 k) :: ps, fun rest => by simp only [List.cons_append, readTable, e]⟩
    | [], h => simp at h
    | [_], h => simp at h; omega
    | [_, _], h => simp at h; omega

/-- What a window that decodes began with: an acceptable token, and a shorter window that decodes (R167). -/
theorem decodeWindow_succ_ok {pal : StreamPalette} {m w : Nat} {bs rest : List Byte} {px : List Pixel}
    (h : decodeWindow pal (m + 1) (w + 1) bs = .ok (px, rest)) :
    ∃ i hd t rest1 mid, readToken bs = .ok ((i, hd, t), rest1) ∧ hd ≠ 0 ∧ i ≤ pal.size ∧ hd + t ≤ w + 1 ∧
      decodeWindow pal m (w + 1 - (hd + t)) rest1 = .ok (mid, rest) ∧
      px = List.replicate hd ((pal.colours[i]?).getD Config.sentinel) ++ mid
        ++ List.replicate t ((pal.colours[i]?).getD Config.sentinel) := by
  rw [decodeWindow] at h
  cases hr : readToken bs with
  | error e => rw [hr] at h; cases h
  | ok x =>
    obtain ⟨⟨i, hd, t⟩, rest1⟩ := x
    rw [hr] at h
    simp only at h
    split at h
    · cases h
    split at h
    · cases h
    split at h
    · cases h
    cases hd' : decodeWindow pal m (w + 1 - (hd + t)) rest1 with
    | error e => rw [hd'] at h; cases h
    | ok y =>
      rw [hd'] at h
      simp only [Except.ok.injEq, Prod.mk.injEq] at h
      obtain ⟨rfl, rfl⟩ := h
      exact ⟨i, hd, t, rest1, y.1, rfl, by assumption, by omega, by omega, hd', rfl⟩

/-- A window that begins with an acceptable token decodes as the shorter window behind it does (R167). -/
theorem decodeWindow_token {pal : StreamPalette} {m w i h t : Nat} {bs rest : List Byte}
    (hr : readToken bs = .ok ((i, h, t), rest)) (h0 : h ≠ 0) (hi : i ≤ pal.size) (hw : h + t ≤ w + 1) :
    decodeWindow pal (m + 1) (w + 1) bs =
      match decodeWindow pal m (w + 1 - (h + t)) rest with
      | .error e => .error e
      | .ok (mid, rest') =>
        .ok (List.replicate h ((pal.colours[i]?).getD Config.sentinel) ++ mid
          ++ List.replicate t ((pal.colours[i]?).getD Config.sentinel), rest') := by
  have hi' : ¬ pal.size < i := by omega
  have hw' : ¬ w + 1 < h + t := by omega
  cases hd : decodeWindow pal m (w + 1 - (h + t)) rest <;> simp only [decodeWindow, hr, h0, hi', hw', hd, if_false]

/-- A window that decodes decodes the same in a stream that goes on. -/
theorem decodeWindow_append {pal : StreamPalette} {m w : Nat} {bs rest : List Byte} {px : List Pixel}
    (h : decodeWindow pal m w bs = .ok (px, rest)) (c : List Byte) :
    decodeWindow pal m w (bs ++ c) = .ok (px, rest ++ c) := by
  induction m generalizing w bs px with
  | zero => cases w <;> simp [decodeWindow] at h ⊢; exact ⟨h.1, by rw [h.2]⟩
  | succ m ih =>
    cases w with
    | zero => simp [decodeWindow] at h ⊢; exact ⟨h.1, by rw [h.2]⟩
    | succ w =>
      obtain ⟨i, hd, t, rest1, mid, hr, h0, hi, hw, hm, rfl⟩ := decodeWindow_succ_ok h
      rw [decodeWindow_token (readToken_append hr c) h0 hi hw, ih hm]

/-- A chunk that decodes has taken at least one byte. -/
theorem decodeWindow_length {pal : StreamPalette} {m w : Nat} {bs rest : List Byte} {px : List Pixel}
    (h : decodeWindow pal m w bs = .ok (px, rest)) :
    rest.length ≤ bs.length ∧ (0 < w → rest.length < bs.length) := by
  induction m generalizing w bs px with
  | zero => cases w <;> simp_all [decodeWindow]
  | succ m ih =>
    cases w with
    | zero => simp_all [decodeWindow]
    | succ w =>
      obtain ⟨i, hd, t, rest1, mid, hr, -, -, -, hm, -⟩ := decodeWindow_succ_ok h
      have := readToken_length hr
      have := (ih hm).1
      omega

/-- A failure in what the tokens at the front of a window leave of it is a failure of the window (R168). -/
theorem decodeWindow_takesTokens_error {pal : StreamPalette} {w left : Nat} {bytes rest : List Byte}
    (ht : TakesTokens pal.size w bytes left) {e : StreamError} {m : Nat} (hm : w ≤ m)
    (he : ∀ m', left ≤ m' → decodeWindow pal m' left rest = .error e) :
    decodeWindow pal m w (bytes ++ rest) = .error e := by
  induction ht generalizing m with
  | none w => exact he m hm
  | @token w left i h t b bytes hr h0 hi hf _ ih =>
    obtain ⟨w, rfl⟩ : ∃ k, w = k + 1 := ⟨w - 1, by omega⟩
    obtain ⟨m, rfl⟩ : ∃ k, m = k + 1 := ⟨m - 1, by omega⟩
    rw [List.append_assoc, decodeWindow_token (readToken_append hr _) h0 hi hf, List.nil_append,
      ih (by omega) he]

/-- A failure in the chunk after whole chunks is a failure of the stream (R166). -/
theorem decodeChunks_append_error {pal : StreamPalette} {f : Nat} {chunks bad : List Byte} {px : List Pixel}
    (h : decodeChunks pal f chunks = .ok px) {e : StreamError} (hb : bad ≠ [])
    (he : decodeWindow pal Config.chunk Config.chunk bad = .error e) {f' : Nat} (hf : chunks.length < f') :
    decodeChunks pal f' (chunks ++ bad) = .error e := by
  obtain ⟨f', rfl⟩ : ∃ k, f' = k + 1 := ⟨f' - 1, by omega⟩
  induction f generalizing chunks px f' with
  | zero =>
    cases chunks with
    | nil =>
      cases bad with
      | nil => exact absurd rfl hb
      | cons b bs => simp only [List.nil_append, decodeChunks, he]
    | cons b bs => simp [decodeChunks] at h
  | succ f ih =>
    cases chunks with
    | nil =>
      cases bad with
      | nil => exact absurd rfl hb
      | cons b bs => simp only [List.nil_append, decodeChunks, he]
    | cons b bs =>
      rw [decodeChunks] at h
      cases hw : decodeWindow pal Config.chunk Config.chunk (b :: bs) with
      | error e' => rw [hw] at h; cases h
      | ok y =>
        rw [hw] at h
        simp only at h
        cases hc : decodeChunks pal f y.2 with
        | error e' => rw [hc] at h; cases h
        | ok more =>
          have hl := (decodeWindow_length hw).2 (by decide)
          obtain ⟨k, rfl⟩ : ∃ k, f' = k + 1 := ⟨f' - 1, by simp at hf; omega⟩
          have := decodeWindow_append hw bad
          rw [List.cons_append] at this ⊢
          rw [decodeChunks, this]
          simp only
          rw [ih hc k (by omega)]

end Sys2Proof.Machine
end

