-- ==== Sys2Proof/Laws/Registry.lean ====
section
/-! SUPPORT. What LOOKUP_OR_INSERT can do (R101 to R104). -/

namespace Sys2Proof.Machine

/-- A found entry is a valid one that holds the pixel, and no lower one does (R102). -/
theorem findEntry_eq_some {p : Pixel} {s : State} {k : Nat} :
    findEntry p s = some k ↔
      k < s.palSize.toNat ∧ palAt s k = some p ∧ ∀ j, j < k → palAt s j ≠ some p := by
  simp only [findEntry, List.find?_range_eq_some, decide_eq_true_eq, Bool.not_eq_true', decide_eq_false_iff_not,
    List.mem_range]
  tauto

/-- Nothing is found exactly where no valid entry holds the pixel (R102). -/
theorem findEntry_eq_none {p : Pixel} {s : State} :
    findEntry p s = none ↔ ∀ k, k < s.palSize.toNat → palAt s k ≠ some p := by
  simp [findEntry]

/-- What LOOKUP_OR_INSERT can do: a hit that changes nothing, an insert at PAL_SIZE, or PALETTE_FULL with nothing
changed. -/
theorem lookupOrInsert_cases (p : Pixel) (s : State) :
    (∃ k, findEntry p s = some k ∧ lookupOrInsert p s = .ok (BitVec.ofNat 3 k) s) ∨
    (findEntry p s = none ∧ s.palSize.toNat ≤ 7 ∧
      lookupOrInsert p s = .ok (BitVec.ofNat 3 s.palSize.toNat) (insertEntry p s)) ∨
    (findEntry p s = none ∧ 8 ≤ s.palSize.toNat ∧ lookupOrInsert p s = .raised .paletteFull s) := by
  cases h : findEntry p s with
  | some k => exact .inl ⟨k, rfl, by simp [lookupOrInsert, h]⟩
  | none =>
    by_cases h8 : 8 ≤ s.palSize.toNat
    · exact .inr (.inr ⟨rfl, h8, by simp [lookupOrInsert, h, h8]⟩)
    · exact .inr (.inl ⟨rfl, by omega, by simp [lookupOrInsert, h, h8]⟩)

/-- The state LOOKUP_OR_INSERT answers with, whichever way it completes. -/
theorem lookupOrInsert_ok {p : Pixel} {s t : State} {i : PalIndex} (h : lookupOrInsert p s = .ok i t) :
    t = s ∨ t = insertEntry p s ∧ findEntry p s = none ∧ s.palSize.toNat ≤ 7 := by
  obtain ⟨k, -, e⟩ | ⟨hn, h7, e⟩ | ⟨-, -, e⟩ := lookupOrInsert_cases p s
  · rw [h] at e; cases e; exact .inl rfl
  · rw [h] at e; cases e; exact .inr ⟨rfl, hn, h7⟩
  · rw [h] at e; cases e

/-- The only error LOOKUP_OR_INSERT raises, and the state it raises it in (R104). -/
theorem lookupOrInsert_raised {p : Pixel} {s t : State} {c : ErrCode} (h : lookupOrInsert p s = .raised c t) :
    c = .paletteFull ∧ t = s ∧ findEntry p s = none ∧ 8 ≤ s.palSize.toNat := by
  obtain ⟨k, -, e⟩ | ⟨-, -, e⟩ | ⟨hn, h8, e⟩ := lookupOrInsert_cases p s
  · rw [h] at e; cases e
  · rw [h] at e; cases e
  · rw [h] at e; cases e; exact ⟨rfl, rfl, hn, h8⟩

end Sys2Proof.Machine
end

