-- ==== Sys2Proof/Laws/Scan.lean ====
section
/-! SUPPORT. What the runs of a scan step are (R123, R124), and what a scan step can do. -/

namespace Sys2Proof.Machine

/-- The tail run stays in the window above `head`, consumes pixels equal to the baseline only, and ends at `head` or at
another pixel (R123). -/
theorem tailRun_spec (pixel : Nat → Pixel) (baseline : Pixel) (head tail : Nat) (h : head ≤ tail) :
    head ≤ tailRun pixel baseline head tail ∧ tailRun pixel baseline head tail ≤ tail ∧
    (∀ j, tailRun pixel baseline head tail < j → j ≤ tail → pixel j = baseline) ∧
    (tailRun pixel baseline head tail ≠ head → pixel (tailRun pixel baseline head tail) ≠ baseline) := by
  induction tail with
  | zero =>
    obtain rfl : head = 0 := by omega
    simp only [tailRun]
    exact ⟨le_rfl, le_rfl, fun j h1 h2 => by omega, fun h => absurd rfl h⟩
  | succ t ih =>
    unfold tailRun
    split
    · rename_i hc
      obtain ⟨a, b, c, d⟩ := ih (by omega)
      refine ⟨a, by omega, fun j h1 h2 => ?_, d⟩
      by_cases hj : j = t + 1
      · exact hj ▸ hc.2
      · exact c j h1 (by omega)
    · rename_i hc
      refine ⟨h, le_rfl, fun j h1 h2 => by omega, fun hne => ?_⟩
      exact fun hp => hc ⟨fun e => hne e.symm, hp⟩

/-- The head run stays in the window, consumes pixels equal to the baseline only, and, if its bound is not what ended
it, ends behind `tail` or at another pixel (R124). -/
theorem headRun_spec (pixel : Nat → Pixel) (baseline : Pixel) (tail n head : Nat) (h : head ≤ tail + 1) :
    head ≤ headRun pixel baseline tail n head ∧ headRun pixel baseline tail n head ≤ tail + 1 ∧
    (∀ j, head ≤ j → j < headRun pixel baseline tail n head → pixel j = baseline) ∧
    (tail + 1 ≤ head + n → headRun pixel baseline tail n head ≤ tail →
      pixel (headRun pixel baseline tail n head) ≠ baseline) := by
  induction n generalizing head with
  | zero =>
    simp only [headRun]
    exact ⟨le_rfl, h, fun j h1 h2 => by omega, fun h1 h2 => by omega⟩
  | succ n ih =>
    unfold headRun
    split
    · rename_i hc
      obtain ⟨a, b, c, d⟩ := ih (head + 1) (by omega)
      refine ⟨by omega, b, fun j h1 h2 => ?_, fun h1 h2 => d (by omega) h2⟩
      by_cases hj : j = head
      · exact hj ▸ hc.2
      · exact c j (by omega) h2
    · rename_i hc
      exact ⟨le_rfl, h, fun j h1 h2 => by omega, fun h1 h2 hp => hc ⟨h2, hp⟩⟩

/-- The head run of a scan step takes the baseline's own position (R124). -/
theorem headRun_takes_baseline (pixel : Nat → Pixel) (tail n head : Nat) (h : head ≤ tail) :
    head + 1 ≤ headRun pixel (pixel head) tail (n + 1) head := by
  rw [headRun, if_pos ⟨h, rfl⟩]
  exact (headRun_spec pixel (pixel head) tail n (head + 1) (by omega)).1

/-- What a scan step can do: raise PALETTE_FULL with nothing changed, or get the baseline's index, move the cursors and
end as EMIT_TOKEN ends. -/
theorem scanStep_cases (s : State) :
    (findEntry (chunkAt s s.head.toNat) s = none ∧ 8 ≤ s.palSize.toNat ∧
      scanStep s = .raised .paletteFull s) ∨
    ∃ i s1, lookupOrInsert (chunkAt s s.head.toNat) s = .ok i s1 ∧
      scanStep s =
        emitToken i (headAfter (chunkAt s) s.head.toNat s.tail.toNat - s.head.toNat)
          (s.tail.toNat - tailAfter (chunkAt s) s.head.toNat s.tail.toNat)
          (setCursors (headAfter (chunkAt s) s.head.toNat s.tail.toNat)
            (tailAfter (chunkAt s) s.head.toNat s.tail.toNat) s1) := by
  cases h : lookupOrInsert (chunkAt s s.head.toNat) s with
  | ok i s1 => exact .inr ⟨i, s1, rfl, by simp [scanStep, h]⟩
  | raised c s1 =>
    obtain ⟨rfl, rfl, hn, h8⟩ := lookupOrInsert_raised h
    exact .inl ⟨hn, h8, by simp [scanStep, h]⟩

end Sys2Proof.Machine
end

