-- ==== Sys2Proof/Laws/ScanRun.lean ====
section
/-! SUPPORT. What a scan step, a scan and ENCODE_CHUNK can do, said once (R120 to R128). -/

namespace Sys2Proof.Machine

/-! ## Bounds of one scan step (R125) -/

/-- The cursors a scan step leaves, in every window. -/
theorem scan_cursors (pixel : Nat → Pixel) {head tail : Nat} (h : head ≤ tail) :
    head ≤ tailAfter pixel head tail ∧ tailAfter pixel head tail ≤ tail ∧
    head + 1 ≤ headAfter pixel head tail ∧ headAfter pixel head tail ≤ tailAfter pixel head tail + 1 := by
  obtain ⟨a, b, -, -⟩ := tailRun_spec pixel (pixel head) head tail h
  refine ⟨a, b, headRun_takes_baseline pixel (tailAfter pixel head tail) 63 head a, ?_⟩
  exact (headRun_spec pixel (pixel head) (tailAfter pixel head tail) Config.chunk head (by
    have : head ≤ tailAfter pixel head tail := a
    omega)).2.1

/-- Both runs of a scan step fit the 6-bit fields (R125 (6), (7)). -/
theorem scan_lengths (pixel : Nat → Pixel) {head tail : Nat} (h : head ≤ tail) (h63 : tail ≤ 63) :
    headAfter pixel head tail - head ≤ 63 ∧ tail - tailAfter pixel head tail ≤ 63 := by
  obtain ⟨a, b, c, d⟩ := scan_cursors pixel h
  refine ⟨?_, by omega⟩
  by_contra hgt
  have e1 : head = 0 := by omega
  have e2 : tailAfter pixel head tail = 63 := by omega
  have e3 : tail = 63 := by omega
  have hstop := (tailRun_spec pixel (pixel head) head tail h).2.2.2 (by
    show tailAfter pixel head tail ≠ head
    omega)
  have hrun := (headRun_spec pixel (pixel head) (tailAfter pixel head tail) Config.chunk head (by omega)).2.2.1 63
    (by omega) (by
      show 63 < headAfter pixel head tail
      omega)
  exact hstop (by
    show pixel (tailAfter pixel head tail) = pixel head
    rw [e2]
    exact hrun)

/-! ## What appending tokens and inserting entries does to a state -/

/-- The registry's valid entries are pairwise distinct (R28 (2)). -/
def DistinctEntries (s : State) : Prop := ∀ j k, j < k → k < s.palSize.toNat → palAt s j ≠ palAt s k

/-- `t` is `s` after some inserts and after the bytes `bs` have been appended, the cursors aside. -/
structure ScanSpan (s t : State) (bs : List Byte) : Prop where
  params : t.params = s.params
  state : t.state = s.state
  err : t.err = s.err
  rej : t.rej = s.rej
  chunkBuf : t.chunkBuf = s.chunkBuf
  fill : t.fill = s.fill
  outLen : t.outLen = s.outLen
  outRd : t.outRd = s.outRd
  chunks : t.chunks = s.chunks
  cmd : t.cmd = s.cmd
  data : t.data = s.data
  result : t.result = s.result
  port : t.port = s.port
  palSize : s.palSize.toNat ≤ t.palSize.toNat
  palSize_le : t.palSize = s.palSize ∨ t.palSize.toNat ≤ 8
  pal : ∀ k, k < s.palSize.toNat ∨ t.palSize.toNat ≤ k → palAt t k = palAt s k
  distinct : DistinctEntries s → DistinctEntries t
  tokBuf : t.tokBuf = (appendBytes bs s).tokBuf
  tokLen : t.tokLen = (appendBytes bs s).tokLen
  freeCount : t.freeCount = (appendBytes bs s).freeCount

/-- Appending depends on the token buffer, its length and the free values alone. -/
theorem appendBytes_congr {s t : State} (bs : List Byte) (hb : t.tokBuf = s.tokBuf) (hl : t.tokLen = s.tokLen)
    (hc : t.freeCount = s.freeCount) :
    (appendBytes bs t).tokBuf = (appendBytes bs s).tokBuf ∧ (appendBytes bs t).tokLen = (appendBytes bs s).tokLen ∧
    (appendBytes bs t).freeCount = (appendBytes bs s).freeCount := by
  induction bs generalizing s t with
  | nil => exact ⟨hb, hl, hc⟩
  | cons b bs ih =>
    rw [appendBytes_cons, appendBytes_cons]
    exact ih (by simp [hb, hl]) (by simp [lengthValue, hl, hc]) (by simp [freeCountAfter, hl, hc])

theorem appendBytes_append (bs cs : List Byte) (s : State) :
    appendBytes (bs ++ cs) s = appendBytes cs (appendBytes bs s) := by
  simp [appendBytes, List.foldl_append]

theorem ScanSpan.refl (s : State) : ScanSpan s s [] where
  params := rfl
  state := rfl
  err := rfl
  rej := rfl
  chunkBuf := rfl
  fill := rfl
  outLen := rfl
  outRd := rfl
  chunks := rfl
  cmd := rfl
  data := rfl
  result := rfl
  port := rfl
  palSize := le_rfl
  palSize_le := .inl rfl
  pal := fun _ _ => rfl
  distinct := id
  tokBuf := rfl
  tokLen := rfl
  freeCount := rfl

theorem ScanSpan.trans {s t u : State} {bs cs : List Byte} (h : ScanSpan s t bs) (h' : ScanSpan t u cs) :
    ScanSpan s u (bs ++ cs) := by
  have hc := appendBytes_congr cs h.tokBuf h.tokLen h.freeCount
  rw [← appendBytes_append] at hc
  exact
    { params := h'.params.trans h.params
      state := h'.state.trans h.state
      err := h'.err.trans h.err
      rej := h'.rej.trans h.rej
      chunkBuf := h'.chunkBuf.trans h.chunkBuf
      fill := h'.fill.trans h.fill
      outLen := h'.outLen.trans h.outLen
      outRd := h'.outRd.trans h.outRd
      chunks := h'.chunks.trans h.chunks
      cmd := h'.cmd.trans h.cmd
      data := h'.data.trans h.data
      result := h'.result.trans h.result
      port := h'.port.trans h.port
      palSize := h.palSize.trans h'.palSize
      palSize_le := by
        rcases h'.palSize_le with e | e
        · rw [e]; exact h.palSize_le
        · exact .inr e
      pal := fun k hk => by
        rw [h'.pal k (by have := h.palSize; omega), h.pal k (by have := h'.palSize; omega)]
      distinct := fun d => h'.distinct (h.distinct d)
      tokBuf := h'.tokBuf.trans hc.1
      tokLen := h'.tokLen.trans hc.2.1
      freeCount := h'.freeCount.trans hc.2.2 }

/-- Moving the cursors is no change that a span sees. -/
theorem ScanSpan.setCursors (h t : Nat) (s : State) : ScanSpan s (setCursors h t s) [] :=
  { ScanSpan.refl s with }

/-- Setting the cursors changes no entry. -/
@[simp] theorem palAt_setCursors (h t : Nat) (s : State) (k : Nat) : palAt (setCursors h t s) k = palAt s k :=
  palAt_congr rfl k

/-- An insert on a miss, with room for it. -/
theorem ScanSpan.insert {p : Pixel} {s : State} (hmiss : findEntry p s = none) (h7 : s.palSize.toNat ≤ 7) :
    ScanSpan s (insertEntry p s) [] := by
  have hsize : (insertEntry p s).palSize.toNat = s.palSize.toNat + 1 := by
    rw [insertEntry_palSize, BitVec.toNat_add]
    show (s.palSize.toNat + 1) % 2 ^ 4 = _
    omega
  refine
    { ScanSpan.refl s with
      palSize := by omega
      palSize_le := .inr (by omega)
      pal := fun k hk => by rw [palAt_insertEntry, if_neg (by omega)]
      distinct := fun d j k hjk hk => ?_ }
  rw [hsize] at hk
  rw [palAt_insertEntry, palAt_insertEntry]
  rw [findEntry_eq_none] at hmiss
  by_cases hkn : k = s.palSize.toNat
  · rw [if_neg (by omega), if_pos (by omega)]
    exact hmiss j (by omega)
  · rw [if_neg (by omega), if_neg (by omega)]
    exact d j k hjk (by omega)

/-- What LOOKUP_OR_INSERT does to the state it answers with. -/
theorem lookupOrInsert_span {p : Pixel} {s t : State} {i : PalIndex} (h : lookupOrInsert p s = .ok i t) :
    ScanSpan s t [] := by
  rcases lookupOrInsert_ok h with rfl | ⟨rfl, hn, h7⟩
  · exact ScanSpan.refl _
  · exact ScanSpan.insert hn h7

/-- Appending bytes as a span. -/
theorem ScanSpan.append (bs : List Byte) (s : State) : ScanSpan s (appendBytes bs s) bs := by
  have e := appendBytes_frame bs s
  have hp : (appendBytes bs s).pal = s.pal := by rw [e]
  have hs : (appendBytes bs s).palSize = s.palSize := by rw [e]
  exact
    { params := by rw [e]
      state := by rw [e]
      err := by rw [e]
      rej := by rw [e]
      chunkBuf := by rw [e]
      fill := by rw [e]
      outLen := by rw [e]
      outRd := by rw [e]
      chunks := by rw [e]
      cmd := by rw [e]
      data := by rw [e]
      result := by rw [e]
      port := by rw [e]
      palSize := by rw [hs]
      palSize_le := .inl hs
      pal := fun k _ => palAt_congr hp k
      distinct := fun d j k hjk hk => by
        rw [hs] at hk
        rw [palAt_congr hp, palAt_congr hp]
        exact d j k hjk hk
      tokBuf := rfl
      tokLen := rfl
      freeCount := rfl }

/-! ## A scan step, the scan, ENCODE_CHUNK -/

/-- A scan step that completes: one token's bytes, no more of them than pixels consumed, and the cursors of R123 and
R124. -/
theorem scanStep_ok {s t : State} (hw : s.head.toNat ≤ s.tail.toNat) (h : scanStep s = .ok () t) :
    ∃ i, ScanSpan s t (packToken i (headAfter (chunkAt s) s.head.toNat s.tail.toNat - s.head.toNat)
        (s.tail.toNat - tailAfter (chunkAt s) s.head.toNat s.tail.toNat)) ∧
      (∃ s1, lookupOrInsert (chunkAt s s.head.toNat) s = .ok i s1 ∧ t.pal = s1.pal ∧ t.palSize = s1.palSize) ∧
      t.head.toNat = headAfter (chunkAt s) s.head.toNat s.tail.toNat ∧
      t.tail.toNat = tailAfter (chunkAt s) s.head.toNat s.tail.toNat := by
  have h63 : s.tail.toNat ≤ 63 := by have := s.tail.isLt; omega
  obtain ⟨a, b, c, d⟩ := scan_cursors (chunkAt s) hw
  rcases scanStep_cases s with ⟨-, -, e⟩ | ⟨i, s1, hl, e⟩
  · rw [h] at e; cases e
  · rw [h] at e
    rcases emitToken_cases i _ _ (setCursors (headAfter (chunkAt s) s.head.toNat s.tail.toNat)
      (tailAfter (chunkAt s) s.head.toNat s.tail.toNat) s1) with ⟨-, -, e'⟩ | ⟨-, -, e'⟩ | ⟨-, e'⟩
    · rw [e'] at e
      cases e
      have hspan := ((lookupOrInsert_span hl).trans (ScanSpan.setCursors
        (headAfter (chunkAt s) s.head.toNat s.tail.toNat) (tailAfter (chunkAt s) s.head.toNat s.tail.toNat) s1)).trans
        (ScanSpan.append (packToken i (headAfter (chunkAt s) s.head.toNat s.tail.toNat - s.head.toNat)
          (s.tail.toNat - tailAfter (chunkAt s) s.head.toNat s.tail.toNat)) _)
      refine ⟨i, hspan, ⟨s1, hl, ?_, ?_⟩, ?_, ?_⟩
      · rw [appendBytes_frame]; rfl
      · rw [appendBytes_frame]; rfl
      · rw [appendBytes_frame]
        show (BitVec.ofNat 7 _).toNat = _
        rw [BitVec.toNat_ofNat, Nat.mod_eq_of_lt (by omega)]
      · rw [appendBytes_frame]
        show (BitVec.ofNat 6 _).toNat = _
        rw [BitVec.toNat_ofNat, Nat.mod_eq_of_lt (by omega)]
    · rw [e'] at e; cases e
    · rw [e'] at e; cases e

/-- A scan step that raises: PALETTE_FULL or OUTPUT_OVERFLOW, no byte written (R122, R125, R154). -/
theorem scanStep_raised {s t : State} {c : ErrCode} (hw : s.head.toNat ≤ s.tail.toNat)
    (h : scanStep s = .raised c t) :
    ScanSpan s t [] ∧ (c = .paletteFull ∧ t = s ∧ 8 ≤ s.palSize.toNat ∧ findEntry (chunkAt s s.head.toNat) s = none ∨
      c = .outputOverflow ∧ ∃ i, capFits s.params.tokCap (s.tokLen.toNat +
        (packToken i (headAfter (chunkAt s) s.head.toNat s.tail.toNat - s.head.toNat)
          (s.tail.toNat - tailAfter (chunkAt s) s.head.toNat s.tail.toNat)).length) = false) := by
  have h63 : s.tail.toNat ≤ 63 := by have := s.tail.isLt; omega
  obtain ⟨l1, l2⟩ := scan_lengths (chunkAt s) hw h63
  obtain ⟨a, b, c', d⟩ := scan_cursors (chunkAt s) hw
  rcases scanStep_cases s with ⟨hn, h8, e⟩ | ⟨i, s1, hl, e⟩
  · rw [h] at e; cases e
    exact ⟨ScanSpan.refl _, .inl ⟨rfl, rfl, h8, hn⟩⟩
  · rw [h] at e
    have hspan := (lookupOrInsert_span hl).trans (ScanSpan.setCursors
      (headAfter (chunkAt s) s.head.toNat s.tail.toNat) (tailAfter (chunkAt s) s.head.toNat s.tail.toNat) s1)
    have hp := hspan.params
    have ht : (setCursors (headAfter (chunkAt s) s.head.toNat s.tail.toNat)
      (tailAfter (chunkAt s) s.head.toNat s.tail.toNat) s1).tokLen = s.tokLen := hspan.tokLen
    rcases emitToken_cases i _ _ (setCursors (headAfter (chunkAt s) s.head.toNat s.tail.toNat)
      (tailAfter (chunkAt s) s.head.toNat s.tail.toNat) s1) with ⟨-, -, e'⟩ | ⟨-, hcap, e'⟩ | ⟨hlen, e'⟩
    · rw [e'] at e; cases e
    · rw [e'] at e; cases e
      rw [hp, ht] at hcap
      exact ⟨hspan, .inr ⟨rfl, i, hcap⟩⟩
    · simp [lengthsFit] at hlen
      omega

/-- A token never takes more bytes than the pixels it consumes (R130). -/
theorem packToken_length_le (i : PalIndex) {h t : Nat} (h1 : 1 ≤ h) :
    1 ≤ (packToken i h t).length ∧ (packToken i h t).length ≤ h + t := by
  rw [packToken_length]
  split <;> omega

/-- What a scan can do from any window: it completes, or raises PALETTE_FULL or OUTPUT_OVERFLOW; either way it has done
some inserts and appended at most as many bytes as the window has positions. -/
theorem scanLoop_span (n : Nat) {s : State} (hw : s.head.toNat ≤ s.tail.toNat + 1) :
    (∃ t bs, scanLoop n s = .ok () t ∧ ScanSpan s t bs ∧ bs.length ≤ s.tail.toNat + 1 - s.head.toNat) ∨
    (∃ c t bs, scanLoop n s = .raised c t ∧ (c = .paletteFull ∨ c = .outputOverflow) ∧ ScanSpan s t bs ∧
      bs.length ≤ s.tail.toNat + 1 - s.head.toNat) := by
  induction n generalizing s with
  | zero => exact .inl ⟨s, [], rfl, ScanSpan.refl s, by simp⟩
  | succ n ih =>
    by_cases hle : s.head.toNat ≤ s.tail.toNat
    · rw [scanLoop, if_pos hle]
      cases hs : scanStep s with
      | ok u t =>
        obtain ⟨i, hspan, -, e1, e2⟩ := scanStep_ok hle hs
        obtain ⟨a, b, c, d⟩ := scan_cursors (chunkAt s) hle
        have hlen := (packToken_length_le i (t := s.tail.toNat - tailAfter (chunkAt s) s.head.toNat s.tail.toNat)
          (h := headAfter (chunkAt s) s.head.toNat s.tail.toNat - s.head.toNat) (by omega)).2
        rw [OpResult.andThen_ok]
        rcases ih (s := t) (by omega) with ⟨v, bs, hr, hsp, hb⟩ | ⟨c', v, bs, hr, hc, hsp, hb⟩
        · exact .inl ⟨v, _, hr, hspan.trans hsp, by rw [List.length_append]; omega⟩
        · exact .inr ⟨c', v, _, hr, hc, hspan.trans hsp, by rw [List.length_append]; omega⟩
      | raised c t =>
        obtain ⟨hspan, hc⟩ := scanStep_raised hle hs
        refine .inr ⟨c, t, [], rfl, ?_, hspan, by simp⟩
        rcases hc with ⟨rfl, -⟩ | ⟨rfl, -⟩
        · exact .inl rfl
        · exact .inr rfl
    · rw [scanLoop, if_neg hle]
      exact .inl ⟨s, [], rfl, ScanSpan.refl s, by simp⟩

/-- What ENCODE_CHUNK can do: complete, with FILL 0 and CHUNKS one higher; or raise PALETTE_FULL or OUTPUT_OVERFLOW; with
some inserts done and at most 64 bytes appended. -/
theorem encodeChunk_span (s : State) :
    (∃ t bs, encodeChunk s = .ok () (completeChunk t) ∧ ScanSpan s t bs ∧ bs.length ≤ 64) ∨
    (∃ c t bs, encodeChunk s = .raised c t ∧ (c = .paletteFull ∨ c = .outputOverflow) ∧ ScanSpan s t bs ∧
      bs.length ≤ 64) := by
  have h0 : (setCursors 0 63 s).head.toNat = 0 := rfl
  have h1 : (setCursors 0 63 s).tail.toNat = 63 := rfl
  unfold encodeChunk
  rcases scanLoop_span Config.chunk (s := setCursors 0 63 s) (by omega) with
    ⟨t, bs, hr, hsp, hb⟩ | ⟨c, t, bs, hr, hc, hsp, hb⟩
  · exact .inl ⟨t, bs, by rw [hr]; rfl, (ScanSpan.setCursors 0 63 s).trans hsp, by omega⟩
  · exact .inr ⟨c, t, bs, by rw [hr]; rfl, hc, (ScanSpan.setCursors 0 63 s).trans hsp, by omega⟩

end Sys2Proof.Machine
end

