-- ==== Sys2Proof/Laws/Step.lean ====
section
/-! SUPPORT. What a step and a meaning can do. -/

namespace Sys2Proof.Machine

/-- What a step can do: wait, take a reset, run a decoded instruction, or reject a reserved opcode. -/
theorem step_cases (s : State) :
    (s.port = [] ∧ step s = .next s) ∨
    (∃ rest, s.port = .reset :: rest ∧ step s = .next (takeReset rest s)) ∨
    (∃ f rest i, s.port = .issue f :: rest ∧ decode f = .ok i ∧ step s = exec i (takeIssue f rest s)) ∨
    (∃ f rest opc, s.port = .issue f :: rest ∧ decode f = .error (.reservedOpcode opc) ∧
      step s = .next (reject (takeIssue f rest s))) := by
  rcases hp : s.port with _ | ⟨e, rest⟩
  · exact .inl ⟨rfl, by simp [step, hp]⟩
  · cases e with
    | reset => exact .inr (.inl ⟨rest, rfl, by simp [step, hp]⟩)
    | issue f =>
      cases hd : decode f with
      | ok i => exact .inr (.inr (.inl ⟨f, rest, i, rfl, hd, by simp [step, hp, runFetched, hd]⟩))
      | error e =>
        obtain ⟨opc⟩ := e
        exact .inr (.inr (.inr ⟨f, rest, opc, rfl, hd, by simp [step, hp, runFetched, hd, execReserved]⟩))

/-- What PUSH_PIXEL can do (R185). -/
theorem execPushPixel_cases (p : Pixel) (s : State) :
    (s.state ≠ .accepting ∧ execPushPixel p s = .next (reject s)) ∨
    (s.state = .accepting ∧ 64 ≤ s.fill.toNat ∧ execPushPixel p s = .fault .chunkBufRange) ∨
    (s.state = .accepting ∧ s.fill.toNat < 64 ∧
      execPushPixel p s = .next (endCommand (scanIfFull (storePixel p s)))) := by
  by_cases h : s.state = .accepting
  · by_cases h64 : 64 ≤ s.fill.toNat
    · exact .inr (.inl ⟨h, h64, by simp [execPushPixel, h, h64]⟩)
    · exact .inr (.inr ⟨h, by omega, by simp [execPushPixel, h, h64]⟩)
  · exact .inl ⟨h, by simp [execPushPixel, h]⟩

/-- What END_INPUT can do (R186). -/
theorem execEndInput_cases (s : State) :
    (s.state ≠ .accepting ∧ execEndInput s = .next (reject s)) ∨
    (s.state = .accepting ∧ s.fill = 0#7 ∧ execEndInput s = .next (answerStatus (finishOperation s))) ∨
    (s.state = .accepting ∧ s.fill ≠ 0#7 ∧ s.params.padPolicy = .reject ∧
      execEndInput s = .next (errorEntry .malformedInput s)) ∨
    (s.state = .accepting ∧ s.fill ≠ 0#7 ∧ s.params.padPolicy = .padSentinel ∧
      execEndInput s =
        .next (endCommand ((encodeChunk (padChunk s)).andThen fun _ s1 => .ok () (finishOperation s1)))) := by
  by_cases h : s.state = .accepting
  · by_cases h0 : s.fill = 0#7
    · exact .inr (.inl ⟨h, h0, by simp [execEndInput, h, finalChunk, h0, OpResult.andThen, endCommand]⟩)
    · cases hp : s.params.padPolicy with
      | reject =>
        refine .inr (.inr (.inl ⟨h, h0, rfl, ?_⟩))
        simp only [execEndInput, h, ne_eq, not_true, if_false, finalChunk, h0, hp, OpResult.andThen, endCommand]
      | padSentinel =>
        refine .inr (.inr (.inr ⟨h, h0, rfl, ?_⟩))
        simp only [execEndInput, h, ne_eq, not_true, if_false, finalChunk, h0, hp]
  · exact .inl ⟨h, by simp [execEndInput, h]⟩

/-- What READ_OUT can do (R187). -/
theorem execReadOut_cases (s : State) :
    (s.state ≠ .done ∧ execReadOut s = .next (answer Config.noData (setRej s))) ∨
    (s.state = .done ∧ s.outRd = s.outLen ∧ execReadOut s = .next (answer Config.noData s)) ∨
    (s.state = .done ∧ s.outRd ≠ s.outLen ∧ ∃ b, outByte s s.outRd.toNat = some b ∧
      execReadOut s = .next (answer (b.setWidth 32) (setOutRd (s.outRd.toNat + 1) s))) ∨
    (s.state = .done ∧ s.outRd ≠ s.outLen ∧ outByte s s.outRd.toNat = none ∧
      execReadOut s = .fault .outNoValue) := by
  by_cases h : s.state = .done
  · by_cases hl : s.outRd = s.outLen
    · exact .inr (.inl ⟨h, hl, by simp [execReadOut, h, hl]⟩)
    · cases hb : outByte s s.outRd.toNat with
      | some b => exact .inr (.inr (.inl ⟨h, hl, b, rfl, by simp [execReadOut, h, hl, hb]⟩))
      | none => exact .inr (.inr (.inr ⟨h, hl, rfl, by simp [execReadOut, h, hl, hb]⟩))
  · exact .inl ⟨h, by simp [execReadOut, h]⟩

end Sys2Proof.Machine
end

