-- ==== Sys2Proof/Tests/Slice0.lean ====
section
/-! SUPPORT. Tests on words and vectors that the spec writes out, and a witness for the hypotheses of every statement. -/

namespace Sys2Proof.Machine

/-! ## Helpers -/

/-- A = 0x0A141E00, B = 0x01020304, C = 0x07070707 of `95_test_vectors.md`; S is the sentinel. -/
def pixA : Pixel := 0x0A141E00#32
def pixB : Pixel := 0x01020304#32
def pixC : Pixel := 0x07070707#32
def pixS : Pixel := 0xFF00FFFF#32

/-- An open operation. -/
def opened : State := { State.reset with state := .accepting }

/-- An open operation whose chunk holds `f j` at position j, `n` pixels being pushed. -/
def pushed (n : BitVec 7) (f : Nat → Pixel) : State :=
  { opened with chunkBuf := Vector.ofFn fun j => f j.val, fill := n }

/-- The token bytes of a state, in order. -/
def tokenBytes (s : State) : List (Option Byte) := (List.range s.tokLen.toNat).map (Memory.read s.tokBuf)

/-- A view of the state an outcome goes on with. -/
def viewNext {α : Type} (f : State → α) : Host.Outcome State Fault Refusal → Option α
  | .next t => some (f t)
  | .fault _ => none
  | .refused _ => none

/-- The registry [S, c1, .., c7], full. -/
def fullRegistry (s : State) : State :=
  { s with pal := Vector.ofFn fun j => BitVec.ofNat 32 ((j.val + 1) * 2 ^ 24), palSize := 8#4 }

/-! ## WellFormed refuses the ill-formed (R81, R9) -/

theorem test_wf_short_zero_head : WellFormed (.tokenShort 3#3 0#4) = false := by decide
theorem test_wf_long_zero_head : WellFormed (.tokenLong 2#3 0#6 5#6) = false := by decide
theorem test_wf_long_non_canonical : WellFormed (.tokenLong 0#3 1#6 0#6) = false := by decide
theorem test_wf_accepts : WellFormed (.tokenLong 7#3 16#6 0#6) = true ∧ WellFormed (.tokenShort 0#3 1#4) = true := by
  decide
theorem test_wf_small_capacity : Params.legal { tokCap := .bytes 63 } = false := by decide

/-! ## Decoding: words written out from R71, R72, R76, R77 and L2.3 -/

theorem test_decode_nop : decode (.command 0x0000000000#40) = .ok .nop := rfl
theorem test_decode_start : decode (.command 0x0000000001#40) = .ok .start := rfl
theorem test_decode_pushPixel : decode (.command 0x0A141E0002#40) = .ok (.pushPixel pixA) := rfl
theorem test_decode_endInput : decode (.command 0x0000000003#40) = .ok .endInput := rfl
theorem test_decode_readOut : decode (.command 0x0000000004#40) = .ok .readOut := rfl
theorem test_decode_readOutLen : decode (.command 0x0000000005#40) = .ok .readOutLen := rfl
theorem test_decode_reserved : decode (.command 0x1234567842#40) = .error (.reservedOpcode 0x42#8) := rfl
/-- K3 of L2.3: 111 0 1111. -/
theorem test_decode_tokenShort : decode (.token 0xEF#8 0x55#8) = .ok (.tokenShort 7#3 15#4) := rfl
/-- K9 of L2.3: b0 = 101 1 0010, b1 = 10 010100. -/
theorem test_decode_tokenLong : decode (.token 0xB2#8 0x94#8) = .ok (.tokenLong 5#3 10#6 20#6) := rfl
theorem test_encode_tokenLong : encode (.tokenLong 3#3 63#6 0#6) = .token 0x7F#8 0xC0#8 := by decide
theorem test_table_words :
    decodeTableWord 40 0x0A141E0002 = some (.pushPixel pixA) ∧ decodeTableWord 8 0x03 = some .endInput ∧
    decodeTableWord 8 0x2F = some (.tokenShort 1#3 15#4) ∧
    decodeTableWord 16 0xB294 = some (.tokenLong 5#3 10#6 20#6) := ⟨rfl, rfl, rfl, rfl⟩

/-! ## One step each: the vectors of `95_test_vectors.md` -/

/-- H1. -/
theorem test_nop : viewNext State.result (exec .nop State.reset) = some 0x00000000#32 := by decide
/-- X5: START leaves ERROR. -/
theorem test_start : viewNext State.result (exec .start { (fullRegistry opened) with
    state := .error, err := .paletteFull, rej := true }) = some 0x00000001#32 := by decide
/-- H10: the 64th A of a chunk. -/
theorem test_push_completes : viewNext (fun t => (t.result, tokenBytes t)) (exec (.pushPixel pixA)
    (pushed 63#7 fun _ => pixA)) = some (0x00040101#32, [some 0x30#8, some 0x7F#8]) := by decide
/-- E11: A*14 ++ [B] ++ A*49. -/
theorem test_push_inner_run : viewNext tokenBytes (exec (.pushPixel pixA)
    (pushed 63#7 fun j => if j = 14 then pixB else pixA)) = some [some 0x33#8, some 0xB1#8, some 0x41#8] := by decide
/-- P2: ten A padded with the sentinel. -/
theorem test_end_pads : viewNext (fun t => (t.result, outView t)) (exec .endInput (pushed 10#7 fun _ => pixA))
    = some (0x00040102#32, some [0x01#8, 0x0A#8, 0x14#8, 0x1E#8, 0x2A#8, 0x10#8, 0x75#8]) := by decide
/-- H16. -/
theorem test_end_rejects : viewNext State.result (exec .endInput { (pushed 10#7 fun _ => pixA) with
    params := { padPolicy := .reject } }) = some 0x00000023#32 := by decide
/-- The fourth byte of Z3's output. -/
theorem test_readOut : viewNext State.result (exec .readOut { (pushed 0#7 fun _ => 0#32) with
    state := .done, palSize := 2#4, pal := Vector.replicate 7 pixA, outLen := 6#32, outRd := 3#32 }) = some 0x1E#32 := by
  decide
/-- H5. -/
theorem test_readOut_rejected : viewNext (fun t => (t.result, t.rej)) (exec .readOut State.reset)
    = some (0xFFFFFFFF#32, true) := by decide
theorem test_readOutLen : viewNext State.result (exec .readOutLen { opened with state := .done, outLen := 11#32 })
    = some 11#32 := by decide
/-- K14: TOK(1,1,0) fits exactly at TOK_LEN = 63, TOK_CAP = 64. -/
theorem test_tokenShort : viewNext (fun t => (t.tokLen, t.tokBuf)) (exec (.tokenShort 1#3 1#4) { opened with
    tokLen := 63#32, params := { tokCap := .bytes 64 } }) = some (64#32, [(63, 0x21#8)]) := by decide
/-- K10: h = 0. -/
theorem test_tokenLong_zero_head : viewNext (fun t => (t.err, t.state)) (exec (.tokenLong 2#3 0#6 5#6) opened)
    = some (.lengthAssert, .error) := by decide
/-- K8: all field bits 1. -/
theorem test_tokenLong : viewNext (fun t => t.tokBuf) (exec (.tokenLong 7#3 63#6 63#6) opened)
    = some [(0, 0xFF#8), (1, 0xFF#8)] := by decide
/-- K11 and K15: a head of 64 raises LENGTH_ASSERT, before the capacity is looked at. -/
theorem test_emit_64 : (match emitToken 1#3 64 0 { opened with tokLen := 63#32, params := { tokCap := .bytes 64 } } with
    | .raised c _ => some c | .ok _ _ => none) = some .lengthAssert := by decide
/-- X1: the 8th real colour of a chunk. -/
theorem test_palette_full : viewNext State.result (exec (.pushPixel 0x08000000#32)
    (pushed 63#7 fun j => BitVec.ofNat 32 ((j / 8 + 1) * 2 ^ 24))) = some 0x00000713#32 := by decide
/-- H8: a reserved opcode, as a step. -/
theorem test_step_reserved : viewNext State.result (step { opened with port := [.issue (.command 0x1234567842#40)] })
    = some 0x00000005#32 := by decide
theorem test_step_withFetchWord : viewNext State.result (step (State.reset.withFetchWord 40 0x0A141E0002))
    = some 0x00000004#32 := by decide
/-- D2. -/
theorem test_decoder : refDecode (fun _ => 0) [0x01#8, 0x0A#8, 0x14#8, 0x1E#8, 0x2A#8, 0x10#8, 0x75#8]
    = .ok (List.replicate 10 pixA ++ List.replicate 54 pixS) := by decide

/-- D3: a non-canonical long form is accepted with its plain meaning (R168). -/
theorem test_decoder_non_canonical : refDecode (fun _ => 0) [0x00#8, 0x10#8, 0x40#8, 0x10#8, 0x7E#8]
    = .ok (List.replicate 64 pixS) := by decide

/-! ## Witnesses: states and operands that meet the hypotheses of the statements -/

theorem witness_DecodeEncodeAgree : decode (.token 0xB2#8 0x94#8) = .ok (.tokenLong 5#3 10#6 20#6) := rfl
theorem witness_OpcodeSelectsCommand :
    (0x05#40).extractLsb' 0 8 = 0x05#8 ∧ (0x1234567802#40).extractLsb' 0 8 = 0x02#8 ∧
    6 ≤ ((0x06#40).extractLsb' 0 8).toNat ∧ 6 ≤ ((0xFF#40).extractLsb' 0 8).toNat := by decide
theorem witness_IgnoredDataHasNoEffect :
    opcField 0x1234567803#40 = opcField 0x0000000003#40 ∧ opcField 0x1234567803#40 ≠ 0x02#8 := by decide
theorem witness_TokenBytesByForm :
    (lengthsFit 15 0 = true ∧ (0 = 0 ∧ 15 < 16)) ∧ (lengthsFit 16 0 = true ∧ ¬(0 = 0 ∧ 16 < 16)) ∧
    (lengthsFit 63 63 = true ∧ ¬(63 = 0 ∧ 63 < 16)) := by decide
theorem witness_TokenReadsBack : lengthsFit 1 63 = true := by decide
theorem witness_StepRunsDecodedInstruction :
    ({ State.reset with port := [issueOf .start] } : State).port = .issue (encode .start) :: [] ∧
    decode (encode .start) = .ok .start := ⟨rfl, rfl⟩
theorem witness_StepRunsDecodedInstruction_token :
    ({ State.reset with port := [.issue (.token 0x21#8 0#8)] } : State).port = .issue (.token 0x21#8 0#8) :: [] ∧
    decode (.token 0x21#8 0#8) = .ok (.tokenShort 1#3 1#4) := ⟨rfl, rfl⟩
theorem witness_EmptyPortWaits : State.reset.port = [] := rfl
theorem witness_AfterResetOnlyStartOpens :
    State.reset.state = .idle ∧ State.reset.port = [] ∧
    (∀ e ∈ ({ State.reset with port := [issueOf .start] } : State).port, atPort e = true) ∧
    viewNext State.state (step { State.reset with port := [issueOf .start] }) = some .accepting := by decide
theorem witness_AfterResetOnlyStartOpens_stays :
    (∀ e ∈ ({ State.reset with port := [issueOf .endInput] } : State).port, atPort e = true) ∧
    viewNext State.state (step { State.reset with port := [issueOf .endInput] }) = some .idle := by decide
/-- A state for each code of STATE and of ERR. -/
theorem witness_StatusFields :
    State.reset.state = .idle ∧ opened.state = .accepting ∧ ({ opened with state := .done } : State).state = .done ∧
    (errorEntry .paletteFull opened).state = .error ∧ opened.err = .none ∧
    (errorEntry .paletteFull opened).err = .paletteFull ∧
    (errorEntry .malformedInput opened).err = .malformedInput ∧
    (errorEntry .outputOverflow opened).err = .outputOverflow ∧
    (errorEntry .lengthAssert opened).err = .lengthAssert := by decide
theorem witness_ResetTakesResetValues : ({ opened with port := [.reset] } : State).port = .reset :: [] := rfl
theorem witness_IllegalPushAndEndAreRejected : State.reset.state ≠ .accepting := by decide
theorem witness_ReservedOpcodeIsRejected :
    ({ State.reset with port := [.issue (.command 0x06#40)] } : State).port = .issue (.command 0x06#40) :: [] ∧
    6 ≤ (opcField 0x06#40).toNat := ⟨rfl, by decide⟩
theorem witness_RejectedExactlyWhenIllegal :
    isCommand .endInput = true ∧ State.reset.rej = false ∧ exec .endInput State.reset = .next (reject State.reset) ∧
    legalIn .endInput State.reset.state = false := ⟨rfl, rfl, rfl, rfl⟩
theorem witness_RejectedExactlyWhenIllegal_legal :
    isCommand .nop = true ∧ State.reset.rej = false ∧ legalIn .nop State.reset.state = true ∧
    exec .nop State.reset = .next (answerStatus State.reset) := ⟨rfl, rfl, rfl, rfl⟩
theorem witness_RejectedExactlyWhenIllegal_readOut :
    isCommand .readOut = true ∧ legalIn .readOut opened.state = false := ⟨rfl, rfl⟩
theorem witness_RejIsSticky :
    ∃ t, ({ State.reset with rej := true, port := [issueOf .start] } : State).rej = true ∧
      step { State.reset with rej := true, port := [issueOf .start] } = .next t ∧ t.rej = false := ⟨_, rfl, rfl, rfl⟩
theorem witness_PushPixelStoresPixel :
    (pushed 62#7 fun _ => pixA).state = .accepting ∧ (pushed 62#7 fun _ => pixA).fill.toNat < 63 := by decide
theorem witness_PushPixelCompletesChunk :
    (pushed 63#7 fun _ => pixA).state = .accepting ∧ (pushed 63#7 fun _ => pixA).fill = 63#7 ∧
    (pushed 63#7 fun _ => pixA).tokLen.toNat + 64 < 2 ^ 32 := by decide
theorem witness_EndInputWithoutPartialChunk :
    opened.state = .accepting ∧ opened.fill = 0#7 ∧
    1 + 3 * (opened.palSize.toNat - 1) + opened.tokLen.toNat < 2 ^ 32 := by decide
theorem witness_EndInputPadsPartialChunk :
    (pushed 63#7 fun _ => pixA).state = .accepting ∧ (pushed 63#7 fun _ => pixA).fill ≠ 0#7 ∧
    (pushed 63#7 fun _ => pixA).params.padPolicy = .padSentinel ∧
    (pushed 63#7 fun _ => pixA).tokLen.toNat + 128 < 2 ^ 32 := by decide
theorem witness_MalformedInputUnderRejectOnly :
    let s : State := { (pushed 1#7 fun _ => pixA) with params := { padPolicy := .reject } }
    s.state = .accepting ∧ s.fill ≠ 0#7 ∧ s.params.padPolicy = .reject := by decide
theorem witness_MalformedInputUnderRejectOnly_newly :
    let s : State := { (pushed 63#7 fun _ => pixA) with params := { padPolicy := .reject } }
    s.err ≠ .malformedInput ∧ ∃ t, exec .endInput s = .next t ∧ t.err = .malformedInput := ⟨by decide, _, rfl, rfl⟩

/-- A finished operation: empty input, OUT = [0x00] (Z1). -/
def finished : State := { State.reset with state := .done, outLen := 1#32 }

theorem witness_ReadOutDeliversNextByte :
    finished.state = .done ∧ finished.outRd.toNat < finished.outLen.toNat ∧
    outByte finished finished.outRd.toNat = some 0x00#8 := by decide
theorem witness_ReadOutWithoutByteAnswersNoData :
    (({ finished with outRd := 1#32 } : State).state = .done ∧
      ({ finished with outRd := 1#32 } : State).outRd = ({ finished with outRd := 1#32 } : State).outLen) ∧
    State.reset.state ≠ .done := by decide
/-- A limited token buffer of 64 bytes, `n` of them in use. -/
def limited (n : BitVec 32) : State := { opened with tokLen := n, params := { tokCap := .bytes 64 } }

/-- The capacity of `limited` is 64. -/
theorem limited_cap {n : BitVec 32} {k : Nat} (h : k ≤ 64) (cap : Nat) (hc : (limited n).params.tokCap = .bytes cap) :
    k ≤ cap := by cases hc; exact h

theorem witness_TokenShortAppendsByte :
    (15#4 : BitVec 4) ≠ 0#4 ∧
    (∀ cap, (limited 63#32).params.tokCap = .bytes cap → (limited 63#32).tokLen.toNat + 1 ≤ cap) ∧
    (limited 63#32).tokLen.toNat + 1 < 2 ^ 32 := ⟨by decide, limited_cap (by decide), by decide⟩
theorem witness_TokenLongAppendsTwoBytes :
    (1#6 : BitVec 6) ≠ 0#6 ∧ ((1#6 : BitVec 6) ≠ 0#6 ∨ 16 ≤ (1#6 : BitVec 6).toNat) ∧
    ((0#6 : BitVec 6) ≠ 0#6 ∨ 16 ≤ (16#6 : BitVec 6).toNat) ∧
    (∀ cap, (limited 62#32).params.tokCap = .bytes cap → (limited 62#32).tokLen.toNat + 2 ≤ cap) ∧
    (limited 62#32).tokLen.toNat + 2 < 2 ^ 32 :=
  ⟨by decide, by decide, by decide, limited_cap (by decide), by decide⟩
theorem witness_TokenErrorsTakeErrorEntry :
    (1#4 : BitVec 4) ≠ 0#4 ∧ (limited 64#32).params.tokCap = .bytes 64 ∧ 64 < (limited 64#32).tokLen.toNat + 1 ∧
    (1#6 : BitVec 6) ≠ 0#6 ∧ ((1#6 : BitVec 6) ≠ 0#6 ∨ 16 ≤ (1#6 : BitVec 6).toNat) ∧
    (limited 63#32).params.tokCap = .bytes 64 ∧ 64 < (limited 63#32).tokLen.toNat + 2 := by decide
theorem witness_EmitTokenChecksThenAppends :
    (0 = 0 ∨ 63 < 0 ∨ 63 < 0) ∧ (64 = 0 ∨ 63 < 64 ∨ 63 < 0) ∧ (1 = 0 ∨ 63 < 1 ∨ 63 < 64) ∧
    ((limited 63#32).params.tokCap = .bytes 64 ∧ 64 < (limited 63#32).tokLen.toNat + (packToken 1#3 63 63).length) ∧
    ((∀ cap, (limited 62#32).params.tokCap = .bytes cap →
        (limited 62#32).tokLen.toNat + (packToken 1#3 63 63).length ≤ cap) ∧
      (limited 62#32).tokLen.toNat + 2 < 2 ^ 32) :=
  ⟨by decide, by decide, by decide, by decide, limited_cap (by decide), by decide⟩
theorem witness_LookupHitChangesNothing :
    7 < (fullRegistry opened).palSize.toNat ∧ palAt (fullRegistry opened) 7 = some 0x07000000#32 := by decide
theorem witness_LookupMissAppendsOrRaises :
    (∀ k, k < opened.palSize.toNat → palAt opened k ≠ some pixA) ∧
    1 ≤ opened.palSize.toNat ∧ opened.palSize.toNat ≤ 7 := by decide
theorem witness_LookupMissAppendsOrRaises_full :
    (∀ k, k < (fullRegistry opened).palSize.toNat → palAt (fullRegistry opened) k ≠ some pixA) ∧
    (fullRegistry opened).palSize.toNat = 8 := by decide
theorem witness_SentinelAlwaysHitsAtZero : 1 ≤ State.reset.palSize.toNat := by decide
theorem witness_ScanStepBounds : (0 : Nat) ≤ 63 ∧ (63 : Nat) ≤ 63 := by decide
theorem witness_TokensConsumeChunkExactly :
    encodeChunk (pushed 64#7 fun _ => pixA) = .ok () (encodeChunk (pushed 64#7 fun _ => pixA)).final := by decide
theorem witness_ConsecutiveTokensDiffer :
    let pixel : Nat → Pixel := fun j => if j < 32 then pixA else pixB
    (chunkRuns pixel)[0]? = some ⟨pixA, 32, 0⟩ ∧ (chunkRuns pixel)[0 + 1]? = some ⟨pixB, 1, 31⟩ := by decide
theorem witness_ScanEmitsTheChunksTokens :
    let s := pushed 64#7 fun j => if j < 32 then pixA else pixB
    1 ≤ s.palSize.toNat ∧ s.palSize.toNat ≤ 8 ∧ s.tokLen.toNat + 64 < 2 ^ 32 ∧
    encodeChunk s = .ok () (encodeChunk s).final := by decide
theorem witness_UniformChunkIsOneToken :
    let s := pushed 64#7 fun _ => pixA
    (∀ j, j < 64 → chunkAt s j = pixA) ∧ lookupOrInsert pixA s = .ok 1#3 (insertEntry pixA s) ∧
    capFits s.params.tokCap (s.tokLen.toNat + 2) = true ∧ s.tokLen.toNat + 2 < 2 ^ 32 := by decide
theorem witness_OverflowOnlyWhenBufferShort :
    let s : State := { (pushed 64#7 fun _ => pixA) with tokLen := 63#32, params := { tokCap := .bytes 64 } }
    s.tokLen.toNat + 64 < 2 ^ 32 ∧ encodeChunk s = .raised .outputOverflow (encodeChunk s).final := by decide
theorem witness_OutputLayout :
    let s : State := { opened with palSize := 2#4, pal := Vector.replicate 7 pixA, tokLen := 2#32 }
    0 < s.palSize.toNat - 1 ∧ palAt s (0 + 1) = some pixA ∧ 1 < s.tokLen.toNat ∧
    1 + 3 * (s.palSize.toNat - 1) + s.tokLen.toNat ≤ 6 := by decide
theorem witness_OutputIsReadInOrder :
    finished.state = .done ∧ finished.outRd = 0#32 ∧ outView finished = some [0x00#8] ∧
    ([0x00#8] : List Byte)[0]? = some 0x00#8 := by decide
theorem witness_DecoderFailsOnMalformedStreams_header :
    7 < (8#8 : Byte).toNat ∧ (1#8 : Byte).toNat ≤ 7 ∧ [0x0A#8, 0x14#8].length < 3 * (1#8 : Byte).toNat := by decide
/-- An empty palette, one whole chunk of sentinels, then a token that leaves 1 position of the next chunk. -/
theorem witness_DecoderFailsOnMalformedStreams :
    ([] : List Byte).length = 3 * (0#8 : Byte).toNat ∧
    refDecode (fun _ => 0) (0#8 :: [] ++ [0x10#8, 0x7F#8]) = .ok (List.replicate 64 pixS) ∧
    TakesTokens (0#8 : Byte).toNat 64 [0x10#8, 0x7E#8] 1 ∧ 1 ≤ 1 ∧ [0x10#8, 0x7E#8] ≠ ([] : List Byte) ∧
    (0x1F#8 : Byte).getLsbD 4 = true ∧ readToken [0x00#8] = .ok ((0, 0, 0), []) ∧
    readToken [0x21#8] = .ok ((1, 1, 0), []) ∧ (0#8 : Byte).toNat < 1 ∧
    readToken [0x02#8] = .ok ((0, 2, 0), []) ∧ 1 < 2 + 0 :=
  ⟨rfl, by decide, .token (b := [0x10#8, 0x7E#8]) (bytes := []) (i := 0) (h := 1) (t := 62) rfl (by decide) (by decide)
    (by decide) (.none 1), by decide, by decide, rfl, rfl, rfl, by decide, rfl, by decide⟩

/-! ### Legal states -/

theorem inv_of_one_entry {s : State} (hp : s.params.legal = true) (hq : ∀ e ∈ s.port, atPort e = true)
    (h1 : s.palSize = 1#4) (hf : s.fill = 0#7) (he : s.err ≠ .none ↔ s.state = .error) (ht : s.tokLen = 0#32)
    (ho : s.state ≠ .done → s.outLen = 0#32) (hd : s.state = .done → s.outLen = 1#32) (hr : s.outRd = 0#32)
    (hm : s.tokBuf = []) : Inv s where
  params := hp
  port := hq
  palSize := by rw [h1]; decide
  distinct := by intro j k hjk hk; rw [h1] at hk; simp at hk; omega
  fill := by rw [hf]; decide
  fillClosed := fun _ => hf
  err := he
  errorEmpty := fun _ => ht
  outClosed := fun h => ⟨ho h, hr⟩
  outLen := by intro h _; simp [hd h, outputLength, tokenOffset, realColours, h1, ht]
  outRd := by simp [hr]
  tokLen := by rw [ht]; cases s.params.tokCap <;> simp [capFits]
  tokBytes := by intro a ha; rw [ht] at ha; simp at ha
  tokForm := by rw [hm]; rfl

theorem witness_EveryStepKeepsInv :
    Inv { State.reset with port := [issueOf .start] } ∧ ∃ t, step { State.reset with port := [issueOf .start] } = .next t :=
  ⟨inv_of_one_entry rfl (by decide) rfl rfl (by decide) rfl (by decide) (by decide) rfl rfl, _, rfl⟩
theorem witness_LegalStatesNeverStop : Inv { State.reset with port := [issueOf .readOut] } :=
  inv_of_one_entry rfl (by decide) rfl rfl (by decide) rfl (by decide) (by decide) rfl rfl
theorem witness_ReadOutLenAnswersLength :
    (Inv opened ∧ opened.state ≠ .done) ∧ Inv finished ∧ finished.state = .done ∧ outputLength finished < 2 ^ 32 :=
  ⟨⟨inv_of_one_entry rfl (by decide) rfl rfl (by decide) rfl (by decide) (by decide) rfl rfl, by decide⟩,
    inv_of_one_entry rfl (by decide) rfl rfl (by decide) rfl (by decide) (by decide) rfl rfl, rfl, by decide⟩
theorem witness_ErrorLeftOnlyByStart :
    let s : State := { State.reset with state := .error, err := .malformedInput }
    Inv s ∧ s.state = .error ∧ isCommand .start = true ∧ isCommand .readOut = true ∧
      (∃ t, exec .start s = .next t) ∧ ∃ t, exec .readOut s = .next t :=
  ⟨inv_of_one_entry rfl (by decide) rfl rfl (by decide) rfl (by decide) (by decide) rfl rfl, rfl, rfl, rfl, ⟨_, rfl⟩,
    ⟨_, rfl⟩⟩
theorem witness_NoOutputBeforeDone :
    (viewNext State.result (exec .readOut finished) = some 0x00000000#32) ∧
    (opened.state ≠ .error ∧ viewNext State.state (exec (.tokenShort 0#3 0#4) opened) = some .error) := by decide
theorem witness_StateTransitions :
    (∀ e ∈ ({ opened with port := [issueOf .endInput] } : State).port, atPort e = true) ∧
    viewNext State.state (step { opened with port := [issueOf .endInput] }) = some .done := by decide
theorem witness_RegistryFrozenAfterOperation :
    isCommand (.pushPixel pixA) = true ∧ Instr.pushPixel pixA ≠ .start ∧ finished.state = .done ∧
    exec (.pushPixel pixA) finished = .next (reject finished) := ⟨rfl, by decide, rfl, rfl⟩
theorem witness_ParametersNeverChange : step State.reset = .next State.reset := rfl
theorem witness_EveryStepKeepsTokbufCanonical :
    Memory.wf ({ opened with port := [.issue (.token 0x21#8 0#8)] } : State).tokBuf = true ∧
    viewNext State.tokBuf (step { opened with port := [.issue (.token 0x21#8 0#8)] }) = some [(0, 0x21#8)] := by decide
theorem witness_UnwrittenStateIsNeverRead :
    SameLive State.reset { State.reset with pal := Vector.replicate 7 pixA, head := 5#7, tokBuf := [(0, 1#8)] } where
  params := rfl
  state := rfl
  err := rfl
  rej := rfl
  palSize := rfl
  pal := by
    intro k hk
    obtain rfl : k = 0 := by have : k < 1 := hk; omega
    rfl
  fill := rfl
  chunkBuf := fun _ _ => rfl
  tokLen := rfl
  tokBuf := by intro a ha; exact absurd ha (Nat.not_lt_zero a)
  outLen := rfl
  outRd := rfl
  chunks := rfl
  freeCount := rfl
  port := rfl
theorem witness_StartForgetsHistory :
    State.reset.params = finished.params ∧ State.reset.freeCount = finished.freeCount ∧
    State.reset.port = finished.port ∧ (∃ t, exec .start State.reset = .next t) ∧ ∃ t, exec .start finished = .next t :=
  ⟨rfl, rfl, rfl, ⟨_, rfl⟩, ⟨_, rfl⟩⟩

/-! ### Operations -/

/-- An operation of one pixel: A, padded. -/
def onePixel : State := { State.reset with port := encodeOperation [pixA] }

theorem witness_OperationRoundTrips :
    [pixA].length + 128 ≤ 2 ^ 32 ∧ onePixel.port = encodeOperation [pixA] ∧
    viewNext State.state (run 3 onePixel) = some .done := by decide
theorem witness_PaletteCeilingDecidesOutcome :
    (onePixel.params = { padPolicy := .padSentinel, tokCap := .unbounded } ∧
      onePixel.port = encodeOperation [pixA] ∧ (firstSeen [pixA]).length ≤ 7) ∧
    8 ≤ (firstSeen ((List.range 8).map (BitVec.ofNat 32))).length := by decide
theorem witness_RegistryHoldsColoursInFirstSeenOrder :
    onePixel.port = encodeOperation [pixA] ∧ viewNext State.state (run 3 onePixel) = some .done ∧
    0 < (firstSeen [pixA]).length := by decide

end Sys2Proof.Machine
end

section
/-! PROOFS. What an instruction can do, said once: `exec_effect`. With it what a chunk scan keeps of the token buffer. -/

namespace Sys2Proof.Machine

/-! ## The capacity of the token buffer (R33, R154) -/

/-- TOK_LEN is at most TOK_CAP (R33). -/
def WithinCapacity (s : State) : Prop := capFits s.params.tokCap s.tokLen.toNat = true

theorem capFits_zero (c : TokCap) : capFits c 0 = true := by
  cases c <;> simp [capFits]

theorem capFits_mono {c : TokCap} {m n : Nat} (hmn : m ≤ n) (h : capFits c n = true) : capFits c m = true := by
  cases c with
  | unbounded => rfl
  | bytes cap =>
    simp only [capFits, decide_eq_true_eq] at h ⊢
    omega

/-- Appending moves TOK_LEN by at most the number of bytes, also where 32 bits do not hold the sum (log entry 8). -/
theorem appendBytes_tokLen_le (bs : List Byte) (s : State) :
    (appendBytes bs s).tokLen.toNat ≤ s.tokLen.toNat + bs.length := by
  induction bs generalizing s with
  | nil => simp
  | cons b bs ih =>
    have h1 : (appendByte s b).tokLen.toNat ≤ s.tokLen.toNat + 1 := lengthValue_toNat_le _ _
    have h2 := ih (appendByte s b)
    rw [appendBytes_cons, List.length_cons]
    omega

/-- EMIT_TOKEN checks the capacity before it writes (R154). -/
theorem emitToken_withinCapacity (i : PalIndex) (h t : Nat) {s : State} (hs : WithinCapacity s) :
    WithinCapacity (emitToken i h t s).final := by
  rcases emitToken_cases i h t s with ⟨-, hfits, e⟩ | ⟨-, -, e⟩ | ⟨-, e⟩
  · rw [e, OpResult.final_ok, WithinCapacity, (ScanSpan.append _ s).params]
    exact capFits_mono (appendBytes_tokLen_le _ s) hfits
  · rwa [e]
  · rwa [e]

theorem scanStep_withinCapacity {s : State} (hs : WithinCapacity s) : WithinCapacity (scanStep s).final := by
  rcases scanStep_cases s with ⟨-, -, e⟩ | ⟨i, s1, hl, e⟩
  · rwa [e]
  · have hspan := lookupOrInsert_span hl
    have hlen : s1.tokLen = s.tokLen := hspan.tokLen
    rw [e]
    apply emitToken_withinCapacity
    rwa [WithinCapacity, setCursors_params, setCursors_tokLen, hspan.params, hlen]

theorem scanLoop_withinCapacity (n : Nat) {s : State} (hs : WithinCapacity s) :
    WithinCapacity (scanLoop n s).final := by
  induction n generalizing s with
  | zero => exact hs
  | succ n ih =>
    have hstep := scanStep_withinCapacity hs
    rw [scanLoop]
    split
    · cases e : scanStep s with
      | ok u t =>
        rw [e] at hstep
        exact ih hstep
      | raised c t =>
        rw [e] at hstep
        exact hstep
    · exact hs

/-- `t` is a state that the scan of a chunk reaches from `s`: some entries inserted, some bytes appended, as far as the
capacity allows. -/
structure Scanned (s t : State) : Prop where
  span : ∃ bs, ScanSpan s t bs
  capacity : WithinCapacity s → WithinCapacity t

/-- The two ways ENCODE_CHUNK ends (R120, R218). -/
theorem encodeChunk_scanned (s : State) :
    (∃ t, encodeChunk s = .ok () (completeChunk t) ∧ Scanned s t) ∨
    (∃ c t, encodeChunk s = .raised c t ∧ (c = .paletteFull ∨ c = .outputOverflow) ∧ Scanned s t) := by
  have hcap : WithinCapacity s → WithinCapacity (encodeChunk s).final := fun hs => by
    have hloop := scanLoop_withinCapacity Config.chunk (s := setCursors 0 63 s) hs
    unfold encodeChunk
    cases e : scanLoop Config.chunk (setCursors 0 63 s) <;> rw [e] at hloop <;> exact hloop
  rcases encodeChunk_span s with ⟨t, bs, e, hspan, -⟩ | ⟨c, t, bs, e, hc, hspan, -⟩
  · rw [e] at hcap
    exact .inl ⟨t, e, ⟨bs, hspan⟩, hcap⟩
  · rw [e] at hcap
    exact .inr ⟨c, t, e, hc, ⟨bs, hspan⟩, hcap⟩

/-! ## The effect of an instruction -/

/-- What an instruction makes of `s` where it does not stop, one constructor for each way it can end. -/
inductive Effect (s : State) : Instr → State → Prop where
  /-- Nothing but RESULT changes (R183, R187 at the end of the output, R188). -/
  | answered (i : Instr) (v : ResultWord) : i ≠ .start → Effect s i (answer v s)
  /-- The command is rejected (R181, R187 outside DONE). -/
  | rejected (i : Instr) (v : ResultWord) : i ≠ .start → Effect s i (answer v (setRej s))
  /-- START (R184). -/
  | opened : Effect s .start (answerStatus (openOperation s))
  /-- A pixel that does not complete its chunk (R185). -/
  | stored (p : Pixel) : s.state = .accepting → s.fill.toNat < 63 →
      Effect s (.pushPixel p) (answerStatus (storePixel p s))
  /-- The 64th pixel of a chunk, whose scan completes (R185, R128). -/
  | chunkDone (p : Pixel) {u : State} : s.state = .accepting → Scanned (storePixel p s) u →
      Effect s (.pushPixel p) (answerStatus (completeChunk u))
  /-- The 64th pixel of a chunk, whose scan raises (R185, R220). -/
  | chunkRaised (p : Pixel) {c : ErrCode} {u : State} : s.state = .accepting → c ≠ .none →
      Scanned (storePixel p s) u → Effect s (.pushPixel p) (errorEntry c u)
  /-- END_INPUT without a partial chunk (R186). -/
  | finished : s.state = .accepting → s.fill = 0 → Effect s .endInput (answerStatus (finishOperation s))
  /-- END_INPUT with a partial chunk under REJECT (R213). -/
  | malformed : s.state = .accepting → Effect s .endInput (errorEntry .malformedInput s)
  /-- END_INPUT, the scan of the padded chunk completing (R186). -/
  | paddedDone {u : State} : s.state = .accepting → Scanned (padChunk s) u →
      Effect s .endInput (answerStatus (finishOperation (completeChunk u)))
  /-- END_INPUT, the scan of the padded chunk raising (R186, R220). -/
  | paddedRaised {c : ErrCode} {u : State} : s.state = .accepting → c ≠ .none → Scanned (padChunk s) u →
      Effect s .endInput (errorEntry c u)
  /-- READ_OUT that delivers a byte (R187). -/
  | delivered (v : ResultWord) : s.state = .done → s.outRd ≠ s.outLen →
      Effect s .readOut (answer v (setOutRd (s.outRd.toNat + 1) s))
  /-- A directly called EMIT_TOKEN that appends its bytes (R150, log entry 3). -/
  | emitted (i : Instr) (bs : List Byte) : isCommand i = false → Effect s i (appendBytes bs s)
  /-- A directly called EMIT_TOKEN that raises (R154, R155, log entry 3). -/
  | emitRaised (i : Instr) {c : ErrCode} : isCommand i = false → c ≠ .none → Effect s i (errorEntry c s)

theorem execPushPixel_effect {p : Pixel} {s t : State} (h : execPushPixel p s = .next t) :
    Effect s (.pushPixel p) t := by
  rcases execPushPixel_cases p s with ⟨-, e⟩ | ⟨-, -, e⟩ | ⟨hacc, h64, e⟩
  · cases e.symm.trans h
    exact .rejected _ _ nofun
  · cases e.symm.trans h
  · have hfill : (storePixel p s).fill.toNat = s.fill.toNat + 1 := by
      rw [storePixel_fill, BitVec.toNat_add]
      show (s.fill.toNat + 1) % 2 ^ 7 = _
      omega
    by_cases hfull : (storePixel p s).fill = 64#7
    · rw [scanIfFull, if_pos hfull] at e
      rcases encodeChunk_scanned (storePixel p s) with ⟨u, es, hu⟩ | ⟨c, u, es, hc, hu⟩
      · rw [es] at e
        cases e.symm.trans h
        exact .chunkDone p hacc hu
      · rw [es] at e
        cases e.symm.trans h
        exact .chunkRaised p hacc (by rintro rfl; simp at hc) hu
    · rw [scanIfFull, if_neg hfull] at e
      cases e.symm.trans h
      have hne : (storePixel p s).fill.toNat ≠ 64 := fun h' => hfull (BitVec.eq_of_toNat_eq h')
      exact .stored p hacc (by omega)

theorem execEndInput_effect {s t : State} (h : execEndInput s = .next t) : Effect s .endInput t := by
  rcases execEndInput_cases s with ⟨-, e⟩ | ⟨hacc, h0, e⟩ | ⟨hacc, -, -, e⟩ | ⟨hacc, -, -, e⟩
  · cases e.symm.trans h
    exact .rejected _ _ nofun
  · cases e.symm.trans h
    exact .finished hacc h0
  · cases e.symm.trans h
    exact .malformed hacc
  · rcases encodeChunk_scanned (padChunk s) with ⟨u, es, hu⟩ | ⟨c, u, es, hc, hu⟩
    · rw [es] at e
      cases e.symm.trans h
      exact .paddedDone hacc hu
    · rw [es] at e
      cases e.symm.trans h
      exact .paddedRaised hacc (by rintro rfl; simp at hc) hu

theorem execReadOut_effect {s t : State} (h : execReadOut s = .next t) : Effect s .readOut t := by
  rcases execReadOut_cases s with ⟨-, e⟩ | ⟨-, -, e⟩ | ⟨hdone, hne, b, -, e⟩ | ⟨-, -, -, e⟩
  · cases e.symm.trans h
    exact .rejected _ _ nofun
  · cases e.symm.trans h
    exact .answered _ _ nofun
  · cases e.symm.trans h
    exact .delivered _ hdone hne
  · cases e.symm.trans h

/-- A directly called EMIT_TOKEN, whatever lengths it is called with. -/
theorem emitToken_effect {i : Instr} (hi : isCommand i = false) (k : PalIndex) (h t : Nat) (s : State) :
    Effect s i (endToken (emitToken k h t s)) := by
  rcases emitToken_cases k h t s with ⟨-, -, e⟩ | ⟨-, -, e⟩ | ⟨-, e⟩
  · rw [e]
    exact .emitted i _ hi
  · rw [e]
    exact .emitRaised i hi nofun
  · rw [e]
    exact .emitRaised i hi nofun

/-- Whatever an instruction goes on to is one of its effects. -/
theorem exec_effect {i : Instr} {s t : State} (h : exec i s = .next t) : Effect s i t := by
  cases i with
  | nop => cases h; exact .answered _ _ nofun
  | start => cases h; exact .opened
  | pushPixel p => exact execPushPixel_effect h
  | endInput => exact execEndInput_effect h
  | readOut => exact execReadOut_effect h
  | readOutLen => cases h; exact .answered _ _ nofun
  | tokenShort k hd => cases h; exact emitToken_effect rfl k _ _ s
  | tokenLong k hd tl => cases h; exact emitToken_effect rfl k _ _ s

/-- What a step can go on to: the effect of a decoded instruction, or the same state, reset, or a rejection. -/
theorem step_effect {s t : State} (h : step s = .next t) :
    (s.port = [] ∧ t = s) ∨
    (∃ rest, s.port = .reset :: rest ∧ t = takeReset rest s) ∨
    (∃ f rest i, s.port = .issue f :: rest ∧ decode f = .ok i ∧ Effect (takeIssue f rest s) i t) ∨
    (∃ f rest opc, s.port = .issue f :: rest ∧ decode f = .error (.reservedOpcode opc) ∧
      t = reject (takeIssue f rest s)) := by
  rcases step_cases s with ⟨hp, e⟩ | ⟨rest, hp, e⟩ | ⟨f, rest, i, hp, hd, e⟩ | ⟨f, rest, opc, hp, hd, e⟩
  · cases e.symm.trans h
    exact .inl ⟨hp, rfl⟩
  · cases e.symm.trans h
    exact .inr (.inl ⟨rest, hp, rfl⟩)
  · exact .inr (.inr (.inl ⟨f, rest, i, hp, hd, exec_effect (e.symm.trans h)⟩))
  · cases e.symm.trans h
    exact .inr (.inr (.inr ⟨f, rest, opc, hp, hd, rfl⟩))

end Sys2Proof.Machine
end

section
/-! PROOFS. Every step keeps the legal states (O54), and the state after reset is one (O53). -/

namespace Sys2Proof.Machine

/-! ## The part of the invariant that holds at every point of a command -/

/-- Every valid byte of TOKBUF holds a value (R33, R242). -/
def ValidBytesHeld (s : State) : Prop := ∀ a, a < s.tokLen.toNat → (Memory.read s.tokBuf a).isSome = true

/-- The conjuncts of `Inv` that speak of no STATE, ERR, FILL or output: they hold inside a chunk scan too. -/
structure CoreInv (s : State) : Prop where
  params : s.params.legal = true
  port : ∀ e ∈ s.port, atPort e = true
  palSize : 1 ≤ s.palSize.toNat ∧ s.palSize.toNat ≤ 8
  distinct : DistinctEntries s
  capacity : WithinCapacity s
  tokBytes : ValidBytesHeld s
  tokForm : Memory.wf s.tokBuf = true

theorem Inv.core {s : State} (h : Inv s) : CoreInv s :=
  ⟨h.params, h.port, h.palSize, h.distinct, h.tokLen, h.tokBytes, h.tokForm⟩

/-- A registry of one entry and an empty token buffer need nothing more. -/
theorem CoreInv.of_empty {s : State} (hp : s.params.legal = true) (hq : ∀ e ∈ s.port, atPort e = true)
    (h1 : s.palSize = 1) (ht : s.tokLen = 0) (hm : Memory.wf s.tokBuf = true) : CoreInv s where
  params := hp
  port := hq
  palSize := by rw [h1]; decide
  distinct := fun j k hjk hk => by
    have : k < 1 := by rwa [h1] at hk
    omega
  capacity := by
    rw [WithinCapacity, ht]
    exact capFits_zero _
  tokBytes := fun a ha => by
    rw [ht] at ha
    exact absurd ha (Nat.not_lt_zero a)
  tokForm := hm

/-- Appended bytes hold values. Where 32 bits do not hold the length, TOK_LEN gets a free value, which is not above the
true length (log entry 8). -/
theorem appendBytes_validBytesHeld (bs : List Byte) {s : State} (h : ValidBytesHeld s) :
    ValidBytesHeld (appendBytes bs s) := by
  induction bs generalizing s with
  | nil => exact h
  | cons b bs ih =>
    rw [appendBytes_cons]
    apply ih
    intro a ha
    have hle : (appendByte s b).tokLen.toNat ≤ s.tokLen.toNat + 1 := lengthValue_toNat_le _ _
    rw [appendByte_tokBuf, Memory.read_write]
    split
    · rfl
    · exact h a (by omega)

/-- A chunk scan keeps the core of the invariant, wherever it ends. -/
theorem CoreInv.scanned {s t : State} (h : CoreInv s) (hst : Scanned s t) : CoreInv t := by
  obtain ⟨⟨bs, span⟩, capacity⟩ := hst
  exact
    { params := by rw [span.params]; exact h.params
      port := by rw [span.port]; exact h.port
      palSize := by
        have h8 : t.palSize.toNat ≤ 8 := span.palSize_le.elim (fun e => e ▸ h.palSize.2) id
        exact ⟨h.palSize.1.trans span.palSize, h8⟩
      distinct := span.distinct h.distinct
      capacity := capacity h.capacity
      tokBytes := by
        rw [ValidBytesHeld, span.tokLen, span.tokBuf]
        exact appendBytes_validBytesHeld bs h.tokBytes
      tokForm := by
        rw [span.tokBuf]
        exact appendBytes_wf h.tokForm }

theorem CoreInv.storePixel {s : State} (h : CoreInv s) (p : Pixel) : CoreInv (storePixel p s) := { h with }

theorem CoreInv.padChunk {s : State} (h : CoreInv s) : CoreInv (padChunk s) := { h with }

theorem CoreInv.completeChunk {s : State} (h : CoreInv s) : CoreInv (completeChunk s) := { h with }

/-! ## How the core makes a legal state again at the end of a command -/

/-- Outside DONE a legal state has no output. -/
theorem CoreInv.inv_of_not_done {s : State} (h : CoreInv s) (hs : s.state ≠ .done) (hfill : s.fill.toNat ≤ 63)
    (hclosed : s.state ≠ .accepting → s.fill = 0) (herr : s.err ≠ .none ↔ s.state = .error)
    (hempty : s.state = .error → s.tokLen = 0) (hlen : s.outLen = 0) (hrd : s.outRd = 0) : Inv s where
  params := h.params
  port := h.port
  palSize := h.palSize
  distinct := h.distinct
  fill := hfill
  fillClosed := hclosed
  err := herr
  errorEmpty := hempty
  outClosed := fun _ => ⟨hlen, hrd⟩
  outLen := fun hd => absurd hd hs
  outRd := by rw [hlen, hrd]
  tokLen := h.capacity
  tokBytes := h.tokBytes
  tokForm := h.tokForm

/-- An open operation between two commands. -/
theorem CoreInv.inv_of_accepting {s : State} (h : CoreInv s) (hs : s.state = .accepting) (hfill : s.fill.toNat ≤ 63)
    (herr : s.err = .none) (hlen : s.outLen = 0) (hrd : s.outRd = 0) : Inv s :=
  h.inv_of_not_done (by simp [hs]) hfill (absurd hs) (by simp [hs, herr]) (by simp [hs]) hlen hrd

/-- The error entry leads to a legal state from every point of a command (R220). -/
theorem CoreInv.inv_errorEntry {s : State} (h : CoreInv s) {c : ErrCode} (hc : c ≠ .none) : Inv (errorEntry c s) := by
  have core : CoreInv (errorEntry c s) :=
    { h with
      capacity := capFits_zero _
      tokBytes := fun a ha => absurd ha (Nat.not_lt_zero a) }
  exact core.inv_of_not_done nofun (Nat.zero_le _) (fun _ => rfl) ⟨fun _ => rfl, fun _ => hc⟩ (fun _ => rfl) rfl rfl

/-- The successful end of an operation leads to a legal state (R186). -/
theorem CoreInv.inv_finishOperation {s : State} (h : CoreInv s) (hfill : s.fill = 0) (herr : s.err = .none) :
    Inv (finishOperation s) where
  params := h.params
  port := h.port
  palSize := h.palSize
  distinct := h.distinct
  fill := by simp [hfill]
  fillClosed := fun _ => hfill
  err := by simp [herr]
  errorEmpty := nofun
  outClosed := fun hne => absurd rfl hne
  outLen := fun _ hlt => lengthValue_toNat s hlt
  outRd := Nat.zero_le _
  tokLen := h.capacity
  tokBytes := h.tokBytes
  tokForm := h.tokForm

/-! ## The updates that a legal state allows everywhere -/

theorem Inv.answer {s : State} (h : Inv s) (v : ResultWord) : Inv (answer v s) := { h with }

theorem Inv.setRej {s : State} (h : Inv s) : Inv (setRej s) := { h with }

theorem Inv.takeIssue {s : State} (h : Inv s) {f : Fetched} {rest : List PortEvent}
    (hp : s.port = .issue f :: rest) : Inv (takeIssue f rest s) := by
  have hrest : ∀ e ∈ rest, atPort e = true := fun e he => h.port e (by rw [hp]; exact List.mem_cons_of_mem _ he)
  cases f <;> exact { h with port := hrest }

theorem Inv.openOperation {s : State} (h : Inv s) : Inv (openOperation s) :=
  (CoreInv.of_empty (s := Machine.openOperation s) h.params h.port rfl rfl h.tokForm).inv_of_accepting
    rfl (Nat.zero_le _) rfl rfl rfl

/-- A delivered byte is one of OUT_LEN, so that OUT_RD stays in range (R187). -/
theorem Inv.setOutRd_succ {s : State} (h : Inv s) (hdone : s.state = .done) (hne : s.outRd ≠ s.outLen) :
    Inv (setOutRd (s.outRd.toNat + 1) s) := by
  have hlt : s.outRd.toNat < s.outLen.toNat :=
    lt_of_le_of_ne h.outRd fun e => hne (BitVec.eq_of_toNat_eq e)
  exact
    { h with
      outClosed := fun hnd => absurd hdone hnd
      outRd := (lengthValue_toNat_le _ s).trans hlt }

/-- Reset leads to a legal state where the parameters are legal (R38, R240). -/
theorem inv_takeReset {s : State} {rest : List PortEvent} (hp : s.params.legal = true)
    (hq : ∀ e ∈ rest, atPort e = true) : Inv (takeReset rest s) :=
  (CoreInv.of_empty (s := takeReset rest s) hp hq rfl rfl rfl).inv_of_not_done nofun (Nat.zero_le _) (fun _ => rfl)
    ⟨fun hne => absurd rfl hne, nofun⟩ nofun rfl rfl

/-! ## Commands and steps -/

/-- A word on the command port decodes to a command, never to a token (R72). -/
theorem isCommand_of_decode {w : CommandWord} {i : Instr} (h : decode (.command w) = .ok i) :
    isCommand i = true := by
  simp only [decode, decodeCommand] at h
  split_ifs at h <;> cases h <;> rfl

theorem isCommand_of_atPort {f : Fetched} {i : Instr} (hf : atPort (.issue f) = true) (hd : decode f = .ok i) :
    isCommand i = true := by
  cases f with
  | command w => exact isCommand_of_decode hd
  | token b0 b1 => cases hf

/-- Every command keeps the legal states. -/
theorem Effect.keeps_inv {s t : State} {i : Instr} (e : Effect s i t) (hi : isCommand i = true) (h : Inv s) :
    Inv t := by
  have herr (hacc : s.state = .accepting) : s.err = .none := by
    by_contra hne
    cases hacc.symm.trans (h.err.1 hne)
  have hout (hacc : s.state = .accepting) : s.outLen = 0 ∧ s.outRd = 0 := h.outClosed (by simp [hacc])
  cases e with
  | answered i v _ => exact h.answer v
  | rejected i v _ => exact h.setRej.answer v
  | opened => exact h.openOperation.answer _
  | stored p hacc hfill =>
    have hle : (storePixel p s).fill.toNat ≤ 63 := by
      rw [storePixel_fill, BitVec.toNat_add]
      exact (Nat.mod_le _ _).trans hfill
    exact ((h.core.storePixel p).inv_of_accepting hacc hle (herr hacc) (hout hacc).1 (hout hacc).2).answer _
  | chunkDone p hacc hscan =>
    have core := ((h.core.storePixel p).scanned hscan).completeChunk
    obtain ⟨bs, span⟩ := hscan.span
    exact (core.inv_of_accepting (span.state.trans hacc) (Nat.zero_le _) (span.err.trans (herr hacc))
      (span.outLen.trans (hout hacc).1) (span.outRd.trans (hout hacc).2)).answer _
  | chunkRaised p _ hc hscan => exact ((h.core.storePixel p).scanned hscan).inv_errorEntry hc
  | finished hacc hfill => exact (h.core.inv_finishOperation hfill (herr hacc)).answer _
  | malformed _ => exact h.core.inv_errorEntry nofun
  | paddedDone hacc hscan =>
    have core := (h.core.padChunk.scanned hscan).completeChunk
    obtain ⟨bs, span⟩ := hscan.span
    exact (core.inv_finishOperation rfl (span.err.trans (herr hacc))).answer _
  | paddedRaised _ hc hscan => exact (h.core.padChunk.scanned hscan).inv_errorEntry hc
  | delivered v hdone hne => exact (h.setOutRd_succ hdone hne).answer v
  | emitted i bs htok => cases hi.symm.trans htok
  | emitRaised i htok _ => cases hi.symm.trans htok

/-- Settles O54: `CoreInv` holds at every point of a command, and each way a command can end makes a legal state of it. -/
theorem everyStepKeepsInv : Obligations.EveryStepKeepsInv := by
  intro s t h hstep
  rcases step_effect hstep with ⟨-, rfl⟩ | ⟨rest, hp, rfl⟩ | ⟨f, rest, i, hp, hd, e⟩ | ⟨f, rest, -, hp, -, rfl⟩
  · exact h
  · exact inv_takeReset h.params fun e he => h.port e (by rw [hp]; exact List.mem_cons_of_mem _ he)
  · have hport : atPort (.issue f) = true := h.port _ (by rw [hp]; exact List.mem_cons_self)
    exact e.keeps_inv (isCommand_of_atPort hport hd) (h.takeIssue hp)
  · exact (h.takeIssue hp).setRej.answer _

/-- Settles O53: the state after reset is what a reset makes of it. -/
theorem invAtReset : Obligations.InvAtReset :=
  inv_takeReset (s := State.reset) (rest := []) rfl nofun

end Sys2Proof.Machine
end

section
/-! PROOFS. What every step keeps or writes only in stated cases (O15, O49, O51, O52), and what START forgets (O57). -/

namespace Sys2Proof.Machine

/-! ## The parameters and the token buffer's form -/

theorem Scanned.params {s t : State} (h : Scanned s t) : t.params = s.params := by
  obtain ⟨⟨bs, span⟩, -⟩ := h
  exact span.params

theorem Scanned.tokForm {s t : State} (h : Scanned s t) (hs : Memory.wf s.tokBuf = true) :
    Memory.wf t.tokBuf = true := by
  obtain ⟨⟨bs, span⟩, -⟩ := h
  rw [span.tokBuf]
  exact appendBytes_wf hs

theorem Effect.params {s t : State} {i : Instr} (e : Effect s i t) : t.params = s.params := by
  cases e with
  | answered | rejected | opened | stored | finished | malformed | delivered | emitRaised => rfl
  | chunkDone _ _ hscan | chunkRaised _ _ _ hscan => exact hscan.params
  | paddedDone _ hscan | paddedRaised _ _ hscan => exact hscan.params
  | emitted _ bs => exact (ScanSpan.append bs s).params

theorem Effect.tokForm {s t : State} {i : Instr} (e : Effect s i t) (hs : Memory.wf s.tokBuf = true) :
    Memory.wf t.tokBuf = true := by
  cases e with
  | answered | rejected | opened | stored | finished | malformed | delivered | emitRaised => exact hs
  | chunkDone p _ hscan | chunkRaised p _ _ hscan => exact hscan.tokForm (s := storePixel p s) hs
  | paddedDone _ hscan | paddedRaised _ _ hscan => exact hscan.tokForm (s := padChunk s) hs
  | emitted _ bs => exact appendBytes_wf hs

/-- Settles O51: no effect of an instruction touches the parameters, and reset keeps them (log entry 5). -/
theorem parametersNeverChange : Obligations.ParametersNeverChange := by
  intro s t hstep
  rcases step_effect hstep with ⟨-, rfl⟩ | ⟨rest, -, rfl⟩ | ⟨f, rest, i, -, -, e⟩ | ⟨f, rest, -, -, -, rfl⟩
  · rfl
  · rfl
  · rw [e.params, takeIssue_params]
  · rw [reject_params, takeIssue_params]

/-- Settles O52: TOKBUF changes by appended bytes alone, and at reset it lists nothing. -/
theorem everyStepKeepsTokbufCanonical : Obligations.EveryStepKeepsTokbufCanonical := by
  intro s t hs hstep
  rcases step_effect hstep with ⟨-, rfl⟩ | ⟨rest, -, rfl⟩ | ⟨f, rest, i, -, -, e⟩ | ⟨f, rest, -, -, -, rfl⟩
  · exact hs
  · rfl
  · exact e.tokForm (by rwa [takeIssue_tokBuf])
  · rwa [reject_tokBuf, takeIssue_tokBuf]

/-! ## REJ -/

theorem Scanned.rej {s t : State} (h : Scanned s t) : t.rej = s.rej := by
  obtain ⟨⟨bs, span⟩, -⟩ := h
  exact span.rej

/-- Every instruction but START leaves REJ set (R25). -/
theorem Effect.rej {s t : State} {i : Instr} (e : Effect s i t) (hi : i ≠ .start) (hs : s.rej = true) :
    t.rej = true := by
  cases e with
  | answered | stored | finished | malformed | delivered | emitRaised => exact hs
  | rejected => rfl
  | opened => exact absurd rfl hi
  | chunkDone _ _ hscan | chunkRaised _ _ _ hscan => exact hscan.rej.trans hs
  | paddedDone _ hscan | paddedRaised _ _ hscan => exact hscan.rej.trans hs
  | emitted _ bs => exact (ScanSpan.append bs s).rej.trans hs

/-- Settles O15: waiting, a rejection and every instruction but START keep a REJ that is set. -/
theorem rejIsSticky : Obligations.RejIsSticky := by
  intro s t hs hstep ht
  rcases step_effect hstep with ⟨-, rfl⟩ | ⟨rest, hp, -⟩ | ⟨f, rest, i, hp, hd, e⟩ | ⟨f, rest, -, -, -, rfl⟩
  · cases hs.symm.trans ht
  · exact .inl ⟨rest, hp⟩
  · refine .inr ⟨f, rest, hp, ?_⟩
    by_contra hne
    have hset : t.rej = true := e.rej (fun hi => hne (by rw [hd, hi])) (by rwa [takeIssue_rej])
    cases hset.symm.trans ht
  · cases ht

/-! ## STATE -/

/-- The transitions of STATE that a command makes (R23): START opens from everywhere; END_INPUT closes an open operation
with its output; END_INPUT and PUSH_PIXEL end one in an error. -/
theorem Effect.state {s t : State} {i : Instr} (e : Effect s i t) (hi : isCommand i = true) :
    t.state = s.state ∨ (i = .start ∧ t.state = .accepting) ∨
    (i = .endInput ∧ s.state = .accepting ∧ t.state = .done ∧ t.err = s.err) ∨
    ((i = .endInput ∨ ∃ p, i = .pushPixel p) ∧ s.state = .accepting ∧ t.state = .error ∧ t.err ≠ .none) := by
  cases e with
  | answered | rejected | stored | delivered => exact .inl rfl
  | opened => exact .inr (.inl ⟨rfl, rfl⟩)
  | chunkDone p _ hscan =>
    obtain ⟨bs, span⟩ := hscan.span
    exact .inl span.state
  | chunkRaised p hacc hc _ => exact .inr (.inr (.inr ⟨.inr ⟨p, rfl⟩, hacc, rfl, hc⟩))
  | finished hacc _ => exact .inr (.inr (.inl ⟨rfl, hacc, rfl, rfl⟩))
  | malformed hacc => exact .inr (.inr (.inr ⟨.inl rfl, hacc, rfl, nofun⟩))
  | paddedDone hacc hscan =>
    obtain ⟨bs, span⟩ := hscan.span
    exact .inr (.inr (.inl ⟨rfl, hacc, rfl, span.err⟩))
  | paddedRaised hacc hc _ => exact .inr (.inr (.inr ⟨.inl rfl, hacc, rfl, hc⟩))
  | emitted _ _ htok | emitRaised _ htok _ => cases hi.symm.trans htok

/-- START leads to ACCEPTING from every STATE (R184). -/
theorem Effect.state_start {s t : State} (e : Effect s .start t) : t.state = .accepting := by
  cases e with
  | answered _ _ hne | rejected _ _ hne => exact absurd rfl hne
  | opened => rfl
  | emitted _ _ htok | emitRaised _ htok _ => cases htok

/-- Settles O49: the transitions of `Effect.state`, and reset to IDLE. -/
theorem stateTransitions : Obligations.StateTransitions := by
  intro s t hport hstep
  rcases step_effect hstep with ⟨hp, rfl⟩ | ⟨rest, hp, rfl⟩ | ⟨f, rest, i, hp, hd, e⟩ | ⟨f, rest, opc, hp, hd, rfl⟩
  · simp [hp]
  · exact ⟨fun _ _ => rfl, fun _ _ hp' => (by cases hp.symm.trans hp'), fun _ => .inl ⟨rfl, rest, hp⟩⟩
  · have hi : isCommand i = true := isCommand_of_atPort (hport _ (by rw [hp]; exact List.mem_cons_self)) hd
    refine ⟨fun _ hp' => (by cases hp.symm.trans hp'), fun f' rest' hp' hd' => ?_, fun hne => .inr ?_⟩
    · cases hp.symm.trans hp'
      cases hd.symm.trans hd'
      exact e.state_start
    · have htrans := e.state hi
      rw [takeIssue_state, takeIssue_err] at htrans
      rcases htrans with hsame | ⟨rfl, ht⟩ | ⟨rfl, hacc, ht, herr⟩ | ⟨hcmd, hacc, ht, herr⟩
      · exact absurd hsame hne
      · exact .inl ⟨ht, f, rest, hp, hd⟩
      · exact .inr (.inl ⟨hacc, ht, herr, f, rest, hp, hd⟩)
      · refine .inr (.inr ⟨hacc, ht, herr, f, rest, hp, ?_⟩)
        rcases hcmd with rfl | ⟨p, rfl⟩
        · exact .inl hd
        · exact .inr ⟨p, hd⟩
  · refine ⟨fun _ hp' => (by cases hp.symm.trans hp'), fun f' rest' hp' hd' => ?_, fun hne => ?_⟩
    · cases hp.symm.trans hp'
      cases hd.symm.trans hd'
    · exact absurd (takeIssue_state s f rest) hne

/-! ## START -/

/-- Settles O57: START sets every element that holds a value after it, and of PAL only the hard-wired entry is valid. -/
theorem startForgetsHistory : Obligations.StartForgetsHistory := by
  intro s t s' t' hparams hcount hport hs ht
  cases hs
  cases ht
  exact
    { params := hparams
      state := rfl
      err := rfl
      rej := rfl
      palSize := rfl
      pal := fun k hk => by
        obtain rfl : k = 0 := Nat.lt_one_iff.1 hk
        rfl
      fill := rfl
      chunkBuf := fun j hj => absurd hj (Nat.not_lt_zero j)
      tokLen := rfl
      tokBuf := fun a ha => absurd ha (Nat.not_lt_zero a)
      outLen := rfl
      outRd := rfl
      chunks := rfl
      freeCount := hcount
      port := hport }

end Sys2Proof.Machine
end

section
/-! PROOFS. The fields of STATUS (O11). -/

namespace Sys2Proof.Machine

/-- STATUS, with the sum of its fields' widths written out as its width: the laws of concatenation apply to this form. -/
theorem status_eq_cast (s : State) :
    status s = BitVec.cast (m := 32) rfl
      (s.chunks ++ s.fill.extractLsb' 0 6 ++ 0#1 ++ BitVec.ofNat 3 (realColours s) ++ 0#1 ++ errBits s.err ++ 0#1
        ++ BitVec.ofBool s.rej ++ stateBits s.state) := rfl

/-! ## One field each (R35): the fields below it are passed over, then the field stands lowest -/

section
open BitVec (extractLsb'_cast extractLsb'_append_eq_of_le extractLsb'_append_eq_of_add_le extractLsb'_eq_self)

theorem status_state (s : State) : (status s).extractLsb' 0 2 = stateBits s.state := by
  rw [status_eq_cast, extractLsb'_cast, extractLsb'_append_eq_of_add_le (by decide), extractLsb'_eq_self]

theorem status_err (s : State) : (status s).extractLsb' 4 3 = errBits s.err := by
  simp (disch := decide) only [status_eq_cast, extractLsb'_cast, extractLsb'_append_eq_of_le,
    extractLsb'_append_eq_of_add_le]
  exact extractLsb'_eq_self

theorem status_realColours (s : State) : (status s).extractLsb' 8 3 = BitVec.ofNat 3 (realColours s) := by
  simp (disch := decide) only [status_eq_cast, extractLsb'_cast, extractLsb'_append_eq_of_le,
    extractLsb'_append_eq_of_add_le]
  exact extractLsb'_eq_self

theorem status_fill (s : State) : (status s).extractLsb' 12 6 = s.fill.extractLsb' 0 6 := by
  simp (disch := decide) only [status_eq_cast, extractLsb'_cast, extractLsb'_append_eq_of_le,
    extractLsb'_append_eq_of_add_le]
  exact extractLsb'_eq_self

theorem status_chunks (s : State) : (status s).extractLsb' 18 14 = s.chunks := by
  simp (disch := decide) only [status_eq_cast, extractLsb'_cast, extractLsb'_append_eq_of_le]
  exact extractLsb'_eq_self

end

theorem status_rej (s : State) : (status s).getLsbD 2 = s.rej := by
  simp only [status_eq_cast, BitVec.getLsbD_cast, BitVec.getLsbD_append]
  simp

/-- The bits that R35 gives no field read 0. -/
theorem status_reserved (s : State) {k : Nat} (hk : k = 3 ∨ k = 7 ∨ k = 11) : (status s).getLsbD k = false := by
  simp only [status_eq_cast, BitVec.getLsbD_cast, BitVec.getLsbD_append]
  rcases hk with rfl | rfl | rfl <;> simp

/-- No STATUS is NO_DATA, since bit 3 tells them apart (R35, R74). -/
theorem status_ne_noData (s : State) : status s ≠ Config.noData := by
  intro h
  have hbit : (status s).getLsbD 3 = false := status_reserved s (.inl rfl)
  rw [h] at hbit
  exact absurd hbit (by decide)

/-- Settles O11: the field lemmas, with the codes of STATE and ERR. -/
theorem statusFields : Obligations.StatusFields := by
  refine ⟨fun s => ⟨?_, status_rej s, status_reserved s (.inl rfl), ?_, status_reserved s (.inr (.inl rfl)),
    status_realColours s, status_reserved s (.inr (.inr rfl)), status_fill s, status_chunks s, status_ne_noData s⟩, ?_⟩
  · simp +contextual [status_state, stateBits]
  · simp +contextual [status_err, errBits]
  · decide

end Sys2Proof.Machine
end

section
/-! PROOFS. No output before DONE, and none after an error (O48). -/

namespace Sys2Proof.Machine

theorem Scanned.state {s t : State} (h : Scanned s t) : t.state = s.state := by
  obtain ⟨⟨bs, span⟩, -⟩ := h
  exact span.state

/-- READ_OUT outside DONE answers NO_DATA (R187). -/
theorem execReadOut_result_of_not_done {s t : State} (h : execReadOut s = .next t) (hs : s.state ≠ .done) :
    t.result = Config.noData := by
  rcases execReadOut_cases s with ⟨-, e⟩ | ⟨hdone, -⟩ | ⟨hdone, -⟩ | ⟨hdone, -⟩
  · cases e.symm.trans h
    rfl
  all_goals exact absurd hdone hs

/-- The only way into ERROR is the error entry, with a code (R23, R220). -/
theorem Effect.eq_errorEntry {s t : State} {i : Instr} (e : Effect s i t) (hs : s.state ≠ .error)
    (ht : t.state = .error) : ∃ c u, c ≠ .none ∧ t = errorEntry c u := by
  cases e with
  | answered | rejected | stored | delivered => exact absurd ht hs
  | opened | finished | paddedDone => cases ht
  | chunkDone p _ hscan => exact absurd (hscan.state.symm.trans ht) hs
  | emitted _ bs => exact absurd ((ScanSpan.append bs s).state.symm.trans ht) hs
  | chunkRaised _ _ hc _ | paddedRaised _ hc _ | emitRaised _ _ hc => exact ⟨_, _, hc, rfl⟩
  | malformed _ => exact ⟨.malformedInput, s, nofun, rfl⟩

/-- Settles O48: READ_OUT outside DONE answers NO_DATA, and the error entry, the only way into ERROR, clears TOK_LEN,
OUT_LEN, OUT_RD and FILL. -/
theorem noOutputBeforeDone : Obligations.NoOutputBeforeDone := by
  refine ⟨fun s t h hbyte => ?_, fun i s t hs h ht => ?_⟩
  · by_contra hnd
    exact hbyte (execReadOut_result_of_not_done h hnd)
  · obtain ⟨c, u, hc, rfl⟩ := (exec_effect h).eq_errorEntry hs ht
    exact ⟨rfl, rfl, rfl, rfl, hc⟩

end Sys2Proof.Machine
end

section
/-! PROOFS. The encodings: what the decoder reads from a command word and from a token's bytes (O1, O2, O3, O6). -/

namespace Sys2Proof.Machine

/-! ## Command words (R71 to R73) -/

theorem opcField_commandWord (d : BitVec 32) (o : BitVec 8) : opcField (commandWord d o) = o :=
  BitVec.extractLsb'_append_eq_right

theorem dataField_commandWord (d : BitVec 32) (o : BitVec 8) : dataField (commandWord d o) = d :=
  BitVec.extractLsb'_append_eq_left

/-- A command word is its two fields (R71). -/
theorem commandWord_fields (w : CommandWord) : commandWord (dataField w) (opcField w) = w :=
  BitVec.extractLsb'_append_extractLsb'

section
variable {w : CommandWord}

theorem decodeCommand_nop (h : opcField w = 0x00#8) : decodeCommand w = .ok .nop := by
  simp [decodeCommand, h]

theorem decodeCommand_start (h : opcField w = 0x01#8) : decodeCommand w = .ok .start := by
  simp [decodeCommand, h]

theorem decodeCommand_pushPixel (h : opcField w = 0x02#8) : decodeCommand w = .ok (.pushPixel (dataField w)) := by
  simp [decodeCommand, h]

theorem decodeCommand_endInput (h : opcField w = 0x03#8) : decodeCommand w = .ok .endInput := by
  simp [decodeCommand, h]

theorem decodeCommand_readOut (h : opcField w = 0x04#8) : decodeCommand w = .ok .readOut := by
  simp [decodeCommand, h]

theorem decodeCommand_readOutLen (h : opcField w = 0x05#8) : decodeCommand w = .ok .readOutLen := by
  simp [decodeCommand, h]

theorem decodeCommand_reserved (h : 6 ≤ (opcField w).toNat) :
    decodeCommand w = .error (.reservedOpcode (opcField w)) := by
  have hne (o : BitVec 8) (ho : o.toNat < 6) : opcField w ≠ o := by
    rintro rfl
    omega
  simp [decodeCommand, hne]

/-- A command word that decodes has every bit that its instruction gives a meaning. -/
theorem sameMeaningfulBits_of_decodeCommand {i : Instr} (h : decodeCommand w = .ok i) :
    sameMeaningfulBits i (.command w) := by
  unfold decodeCommand at h
  split_ifs at h with h0 h1 h2 h3 h4 h5
  all_goals cases h
  · exact h0
  · exact h1
  · exact (h2 ▸ commandWord_fields w).symm
  · exact h3
  · exact h4
  · exact h5

end

/-! ## Token bytes (R76 to R78) -/

/-- The first byte of a token: the index, the flag of the form, and four bits of the head length. -/
def firstByte (i : PalIndex) (f : Bool) (x : BitVec 4) : Byte := i ++ BitVec.ofBool f ++ x

theorem tokenIndex_firstByte (i : PalIndex) (f : Bool) (x : BitVec 4) : tokenIndex (firstByte i f x) = i := by
  unfold tokenIndex firstByte
  rw [BitVec.extractLsb'_append_eq_of_le (by decide)]
  exact BitVec.extractLsb'_append_eq_left

theorem tokenFlag_firstByte (i : PalIndex) (f : Bool) (x : BitVec 4) : tokenFlag (firstByte i f x) = f := by
  unfold tokenFlag firstByte
  rw [BitVec.getLsbD_append, BitVec.getLsbD_append]
  simp

theorem shortHead_firstByte (i : PalIndex) (f : Bool) (x : BitVec 4) : shortHead (firstByte i f x) = x :=
  BitVec.extractLsb'_append_eq_right

/-- A token's first byte is its three fields (R78). -/
theorem firstByte_fields (b : Byte) : firstByte (tokenIndex b) (tokenFlag b) (shortHead b) = b := by
  have hflag : BitVec.ofBool (tokenFlag b) = b.extractLsb' 4 1 := by
    rw [tokenFlag, BitVec.getLsbD_eq_extractLsb']
    generalize b.extractLsb' 4 1 = f
    revert f
    decide
  unfold firstByte
  rw [hflag, tokenIndex, shortHead, BitVec.extractLsb'_append_extractLsb'_eq_extractLsb' (by rfl)]
  exact BitVec.extractLsb'_append_extractLsb'

theorem packShort_eq_firstByte (i : PalIndex) (h : BitVec 4) : packShort i h = firstByte i false h := rfl

/-- The word of a long token, cut between its two bytes: the cut runs through the head length (R77). -/
theorem longWord_eq_append (i : PalIndex) (h t : BitVec 6) :
    longWord i h t = firstByte i true (h.extractLsb' 2 4) ++ (h.extractLsb' 0 2 ++ t : BitVec 8) := by
  have hh : h = (h.extractLsb' 2 4 ++ h.extractLsb' 0 2 : BitVec 6) := 
    (BitVec.extractLsb'_append_extractLsb' (w := 4) (len := 2)).symm
  conv_lhs => rw [hh]
  unfold longWord firstByte
  rw [BitVec.append_assoc', BitVec.append_assoc']
  rfl

theorem highByte_longWord (i : PalIndex) (h t : BitVec 6) :
    highByte (longWord i h t) = firstByte i true (h.extractLsb' 2 4) := by
  rw [longWord_eq_append]
  exact BitVec.extractLsb'_append_eq_left

theorem lowByte_longWord (i : PalIndex) (h t : BitVec 6) :
    lowByte (longWord i h t) = (h.extractLsb' 0 2 ++ t : BitVec 8) := by
  rw [longWord_eq_append]
  exact BitVec.extractLsb'_append_eq_right

theorem longHead_longWord (i : PalIndex) (h t : BitVec 6) :
    longHead (highByte (longWord i h t)) (lowByte (longWord i h t)) = h := by
  have hhigh : (highByte (longWord i h t)).extractLsb' 0 4 = h.extractLsb' 2 4 := by
    rw [highByte_longWord]
    exact shortHead_firstByte _ _ _
  have hlow : (lowByte (longWord i h t)).extractLsb' 6 2 = h.extractLsb' 0 2 := by
    rw [lowByte_longWord]
    exact BitVec.extractLsb'_append_eq_left
  rw [longHead, hhigh, hlow]
  exact BitVec.extractLsb'_append_extractLsb'

theorem longTail_longWord (i : PalIndex) (h t : BitVec 6) : longTail (lowByte (longWord i h t)) = t := by
  rw [lowByte_longWord]
  exact BitVec.extractLsb'_append_eq_right

/-- The word of a long token's fields is its two bytes (R77, R78). -/
theorem longWord_fields {b0 b1 : Byte} (hf : tokenFlag b0 = true) :
    longWord (tokenIndex b0) (longHead b0 b1) (longTail b1) = b0 ++ b1 := by
  have hhigh : (longHead b0 b1).extractLsb' 2 4 = shortHead b0 := BitVec.extractLsb'_append_eq_left
  have hlow : (longHead b0 b1).extractLsb' 0 2 = b1.extractLsb' 6 2 := BitVec.extractLsb'_append_eq_right
  have hb1 : (b1.extractLsb' 6 2 ++ longTail b1 : BitVec 8) = b1 := BitVec.extractLsb'_append_extractLsb'
  rw [longWord_eq_append, hhigh, hlow, hb1, ← hf, firstByte_fields]

theorem decodeToken_packShort (i : PalIndex) (h : BitVec 4) (b1 : Byte) :
    decodeToken (packShort i h) b1 = .tokenShort i h := by
  simp [decodeToken, packShort_eq_firstByte, tokenFlag_firstByte, tokenIndex_firstByte, shortHead_firstByte]

theorem decodeToken_longWord (i : PalIndex) (h t : BitVec 6) :
    decodeToken (highByte (longWord i h t)) (lowByte (longWord i h t)) = .tokenLong i h t := by
  unfold decodeToken
  rw [longHead_longWord, longTail_longWord, highByte_longWord, tokenFlag_firstByte, tokenIndex_firstByte, if_pos rfl]

/-- The bytes of a presented token have every bit that the instruction they decode to gives a meaning. -/
theorem sameMeaningfulBits_decodeToken (b0 b1 : Byte) :
    sameMeaningfulBits (decodeToken b0 b1) (.token b0 b1) := by
  cases hf : tokenFlag b0 with
  | true =>
    simp only [decodeToken, hf, if_true, sameMeaningfulBits]
    exact (longWord_fields hf).symm
  | false =>
    simp only [decodeToken, hf, Bool.false_eq_true, if_false, sameMeaningfulBits]
    rw [packShort_eq_firstByte, ← hf, firstByte_fields]

/-! ## The encoder's words (O1, O2, O3) -/

theorem decode_encode (i : Instr) : decode (encode i) = .ok i := by
  cases i with
  | nop => exact decodeCommand_nop (opcField_commandWord _ _)
  | start => exact decodeCommand_start (opcField_commandWord _ _)
  | pushPixel p =>
    have h : decodeCommand (commandWord p 0x02#8) = .ok (.pushPixel (dataField (commandWord p 0x02#8))) :=
      decodeCommand_pushPixel (opcField_commandWord _ _)
    rwa [dataField_commandWord] at h
  | endInput => exact decodeCommand_endInput (opcField_commandWord _ _)
  | readOut => exact decodeCommand_readOut (opcField_commandWord _ _)
  | readOutLen => exact decodeCommand_readOutLen (opcField_commandWord _ _)
  | tokenShort i h => exact congrArg Except.ok (decodeToken_packShort i h 0)
  | tokenLong i h t => exact congrArg Except.ok (decodeToken_longWord i h t)

/-- Settles O2: the fields of an encoded word are the operands, and a word is made of its fields. -/
theorem decodeEncodeAgree : Obligations.DecodeEncodeAgree := by
  refine ⟨decode_encode, fun f i h => ?_⟩
  cases f with
  | command w => exact sameMeaningfulBits_of_decodeCommand h
  | token b0 b1 =>
    cases h
    exact sameMeaningfulBits_decodeToken b0 b1

/-- Settles O3: one equation of the decoder for each opcode, and one for the reserved opcodes. -/
theorem opcodeSelectsCommand : Obligations.OpcodeSelectsCommand := fun _ =>
  ⟨decodeCommand_nop, decodeCommand_start, decodeCommand_pushPixel, decodeCommand_endInput, decodeCommand_readOut,
    decodeCommand_readOutLen, decodeCommand_reserved⟩

/-- Settles O1: the opcodes of the command words select their instructions, and the token bytes are those of the
encoder. -/
theorem specWordsDecode : Obligations.SpecWordsDecode :=
  ⟨decodeCommand_nop rfl, decodeCommand_start rfl, decodeCommand_pushPixel rfl, decodeCommand_endInput rfl,
    decodeCommand_readOut rfl, decodeCommand_readOutLen rfl, decodeCommand_reserved (by decide),
    decode_encode (.tokenShort 1#3 15#4), decode_encode (.tokenLong 5#3 10#6 20#6)⟩

/-! ## Reading a token back (O6) -/

theorem readToken_packShort (i : PalIndex) (h : BitVec 4) (rest : List Byte) :
    readToken (packShort i h :: rest) = .ok ((i.toNat, h.toNat, 0), rest) := by
  simp [readToken, packShort_eq_firstByte, tokenFlag_firstByte, tokenIndex_firstByte, shortHead_firstByte]

theorem readToken_longWord (i : PalIndex) (h t : BitVec 6) (rest : List Byte) :
    readToken (highByte (longWord i h t) :: lowByte (longWord i h t) :: rest) =
      .ok ((i.toNat, h.toNat, t.toNat), rest) := by
  simp only [readToken, longHead_longWord, longTail_longWord]
  simp [highByte_longWord, tokenFlag_firstByte, tokenIndex_firstByte]

/-- Settles O6: the lengths of a token fit the fields of the form it takes. -/
theorem tokenReadsBack : Obligations.TokenReadsBack := by
  intro i h t rest hfit
  obtain ⟨-, hh, ht⟩ : 1 ≤ h ∧ h ≤ 63 ∧ t ≤ 63 := by simpa [lengthsFit] using hfit
  by_cases hs : t = 0 ∧ h < 16
  · obtain ⟨rfl, h16⟩ := hs
    have hpack : packToken i h 0 = [packShort i (BitVec.ofNat 4 h)] := by simp [packToken, usesShortForm, h16]
    rw [hpack, List.singleton_append, readToken_packShort, BitVec.toNat_ofNat, Nat.mod_eq_of_lt h16]
  · have hpack : packToken i h t =
        [highByte (longWord i (BitVec.ofNat 6 h) (BitVec.ofNat 6 t)),
          lowByte (longWord i (BitVec.ofNat 6 h) (BitVec.ofNat 6 t))] := by
      simp [packToken, usesShortForm, hs]
    rw [hpack, List.cons_append, List.singleton_append, readToken_longWord, BitVec.toNat_ofNat, BitVec.toNat_ofNat,
      Nat.mod_eq_of_lt (by omega), Nat.mod_eq_of_lt (by omega)]

end Sys2Proof.Machine
end

section
/-! PROOFS. No meaning reads the DATA register (O4): each commutes with a clearing of DATA. -/

namespace Sys2Proof.Machine

/-- The state with its DATA register cleared, which is what `withoutData` makes of a next state. -/
def clearData (s : State) : State := { s with data := 0 }

/-- The result of an internal operation, with DATA cleared in its state. -/
def OpResult.clearData {α : Type} : OpResult α → OpResult α
  | .ok a s => .ok a (Machine.clearData s)
  | .raised c s => .raised c (Machine.clearData s)

/-- A sequence commutes with the clearing where its second part does. -/
theorem OpResult.andThen_clearData {α β : Type} (x : OpResult α) {f : α → State → OpResult β}
    (hf : ∀ a s, f a (Machine.clearData s) = (f a s).clearData) :
    x.clearData.andThen f = (x.andThen f).clearData := by
  cases x with
  | ok a s => exact hf a s
  | raised c s => rfl

/-! ## The internal operations -/

theorem appendBytes_clearData (bs : List Byte) (s : State) :
    appendBytes bs (clearData s) = clearData (appendBytes bs s) := by
  induction bs generalizing s with
  | nil => rfl
  | cons b bs ih => exact ih (appendByte s b)

theorem emitToken_clearData (i : PalIndex) (h t : Nat) (s : State) :
    emitToken i h t (clearData s) = (emitToken i h t s).clearData := by
  unfold emitToken
  rw [apply_ite OpResult.clearData, apply_ite OpResult.clearData, appendBytes_clearData]
  rfl

theorem lookupOrInsert_clearData (p : Pixel) (s : State) :
    lookupOrInsert p (clearData s) = (lookupOrInsert p s).clearData := by
  have hfind : findEntry p (clearData s) = findEntry p s := rfl
  unfold lookupOrInsert
  rw [hfind]
  cases findEntry p s with
  | some k => rfl
  | none =>
    simp only [apply_ite OpResult.clearData]
    rfl

theorem scanStep_clearData (s : State) : scanStep (clearData s) = (scanStep s).clearData := by
  have hlookup : lookupOrInsert (chunkAt (clearData s) (clearData s).head.toNat) (clearData s) =
      (lookupOrInsert (chunkAt s s.head.toNat) s).clearData := lookupOrInsert_clearData _ s
  rw [scanStep, hlookup]
  exact OpResult.andThen_clearData _ fun i s1 => emitToken_clearData i _ _ (setCursors _ _ s1)

theorem scanLoop_clearData (n : Nat) (s : State) : scanLoop n (clearData s) = (scanLoop n s).clearData := by
  induction n generalizing s with
  | zero => rfl
  | succ n ih =>
    rw [scanLoop, scanLoop, apply_ite OpResult.clearData, scanStep_clearData,
      OpResult.andThen_clearData _ fun _ s1 => ih s1]
    rfl

theorem encodeChunk_clearData (s : State) : encodeChunk (clearData s) = (encodeChunk s).clearData := by
  have hscan : scanLoop Config.chunk (setCursors 0 63 (clearData s)) =
      (scanLoop Config.chunk (setCursors 0 63 s)).clearData := scanLoop_clearData _ (setCursors 0 63 s)
  rw [encodeChunk, hscan]
  exact OpResult.andThen_clearData _ fun _ _ => rfl

theorem finalChunk_clearData (s : State) : finalChunk (clearData s) = (finalChunk s).clearData := by
  have hpad : encodeChunk (padChunk (clearData s)) = (encodeChunk (padChunk s)).clearData :=
    encodeChunk_clearData (padChunk s)
  have hparams : (clearData s).params = s.params := rfl
  unfold finalChunk
  rw [apply_ite OpResult.clearData, hpad, hparams]
  cases s.params.padPolicy <;> rfl

theorem scanIfFull_clearData (s : State) : scanIfFull (clearData s) = (scanIfFull s).clearData := by
  unfold scanIfFull
  rw [apply_ite OpResult.clearData, encodeChunk_clearData]
  rfl

theorem endCommand_clearData (x : OpResult Unit) : endCommand x.clearData = clearData (endCommand x) := by
  cases x <;> rfl

theorem endToken_clearData (x : OpResult Unit) : endToken x.clearData = clearData (endToken x) := by
  cases x <;> rfl

/-! ## The instructions and the step -/

theorem execPushPixel_clearData (p : Pixel) (s : State) :
    execPushPixel p (clearData s) = withoutData (execPushPixel p s) := by
  have hstore : scanIfFull (storePixel p (clearData s)) = (scanIfFull (storePixel p s)).clearData :=
    scanIfFull_clearData (storePixel p s)
  unfold execPushPixel
  rw [apply_ite withoutData, apply_ite withoutData, hstore, endCommand_clearData]
  rfl

theorem execEndInput_clearData (s : State) : execEndInput (clearData s) = withoutData (execEndInput s) := by
  unfold execEndInput
  rw [apply_ite withoutData, finalChunk_clearData, OpResult.andThen_clearData _ fun _ _ => rfl, endCommand_clearData]
  rfl

theorem execReadOut_clearData (s : State) : execReadOut (clearData s) = withoutData (execReadOut s) := by
  have hbyte : outByte (clearData s) (clearData s).outRd.toNat = outByte s s.outRd.toNat := rfl
  unfold execReadOut
  rw [apply_ite withoutData, apply_ite withoutData, hbyte]
  cases outByte s s.outRd.toNat <;> rfl

/-- No instruction reads the DATA register: its operand was read from the word by the decoder. -/
theorem exec_clearData (i : Instr) (s : State) : exec i (clearData s) = withoutData (exec i s) := by
  cases i with
  | nop => rfl
  | start => rfl
  | pushPixel p => exact execPushPixel_clearData p s
  | endInput => exact execEndInput_clearData s
  | readOut => exact execReadOut_clearData s
  | readOutLen => rfl
  | tokenShort k h =>
    exact congrArg Host.Outcome.next ((congrArg endToken (emitToken_clearData k _ _ s)).trans (endToken_clearData _))
  | tokenLong k h t =>
    exact congrArg Host.Outcome.next ((congrArg endToken (emitToken_clearData k _ _ s)).trans (endToken_clearData _))

theorem runFetched_clearData (f : Fetched) (s : State) :
    runFetched f (clearData s) = withoutData (runFetched f s) := by
  unfold runFetched
  cases decode f with
  | ok i => exact exec_clearData i s
  | error e =>
    obtain ⟨opc⟩ := e
    rfl

/-- The decoder reads DATA for PUSH_PIXEL alone (R71). -/
theorem decodeCommand_congr {w w' : CommandWord} (h : opcField w = opcField w') (hp : opcField w ≠ 0x02#8) :
    decodeCommand w = decodeCommand w' := by
  have hp' : opcField w' ≠ 0x02#8 := h ▸ hp
  unfold decodeCommand
  rw [if_neg hp, if_neg hp', h]

/-- Two command words with the same OPC leave the same state behind but for DATA. -/
theorem clearData_takeIssue {w w' : CommandWord} (h : opcField w = opcField w') (rest : List PortEvent) (s : State) :
    clearData (takeIssue (.command w) rest s) = clearData (takeIssue (.command w') rest s) := by
  simp [clearData, takeIssue, h]

/-- Settles O4: both words decode alike, and from states that differ in DATA alone no meaning tells them apart. -/
theorem ignoredDataHasNoEffect : Obligations.IgnoredDataHasNoEffect := by
  intro s w w' rest hopc hne
  have hdecode : decode (.command w) = decode (.command w') := decodeCommand_congr hopc hne
  have hrun (u : State) : runFetched (.command w) u = runFetched (.command w') u := by
    rw [runFetched, runFetched, hdecode]
  calc withoutData (runFetched (.command w) (takeIssue (.command w) rest s))
    _ = runFetched (.command w) (clearData (takeIssue (.command w) rest s)) := (runFetched_clearData _ _).symm
    _ = runFetched (.command w') (clearData (takeIssue (.command w') rest s)) := by
      rw [clearData_takeIssue hopc, hrun]
    _ = withoutData (runFetched (.command w') (takeIssue (.command w') rest s)) := runFetched_clearData _ _

end Sys2Proof.Machine
end

section
/-! PROOFS. A lookup in the registry (O32, O33, O34), and the registry after an operation (O50). -/

namespace Sys2Proof.Machine

/-- A lookup that finds an entry answers its index and keeps the state (R102). -/
theorem lookupOrInsert_of_found {p : Pixel} {s : State} {k : Nat} (h : findEntry p s = some k) :
    lookupOrInsert p s = .ok (BitVec.ofNat 3 k) s := by
  simp [lookupOrInsert, h]

/-- Settles O32: a valid entry that holds the pixel makes the search succeed, and the search gives the lowest. -/
theorem lookupHitChangesNothing : Obligations.LookupHitChangesNothing := by
  intro p s k hk hp
  cases hfind : findEntry p s with
  | none => exact absurd hp (findEntry_eq_none.1 hfind k hk)
  | some j =>
    obtain ⟨-, hj, hlowest⟩ := findEntry_eq_some.1 hfind
    have hjk : j ≤ k := not_lt.1 fun hlt => hlowest k hlt hp
    exact ⟨j, hjk, hj, hlowest, lookupOrInsert_of_found hfind⟩

/-- Settles O33: of the three ways a lookup can end, a miss leaves the insert and PALETTE_FULL, and PAL_SIZE tells
which. -/
theorem lookupMissAppendsOrRaises : Obligations.LookupMissAppendsOrRaises := by
  intro p s hmiss
  have hnone : findEntry p s = none := findEntry_eq_none.2 hmiss
  obtain ⟨k, hfind, -⟩ | ⟨-, h7, e⟩ | ⟨-, h8, e⟩ := lookupOrInsert_cases p s
  · cases hnone.symm.trans hfind
  · refine ⟨fun h1 _ => ⟨insertEntry p s, e, rfl, fun k => ?_⟩, fun h8 => by omega⟩
    rw [palAt_insertEntry]
    exact if_congr (by omega) rfl rfl
  · refine ⟨fun _ h7 => by omega, fun hfull => ⟨e, ?_⟩⟩
    rw [status_realColours, realColours, errorEntry_palSize, hfull]

/-- Settles O34: the sentinel is the hard-wired entry 0, and no lower index can hold it. -/
theorem sentinelAlwaysHitsAtZero : Obligations.SentinelAlwaysHitsAtZero := by
  intro s h1
  obtain ⟨j, hj, -, -, e⟩ := lookupHitChangesNothing Config.sentinel s 0 h1 (palAt_zero s)
  obtain rfl : j = 0 := Nat.le_zero.1 hj
  exact e

/-- Settles O50: a command that writes the registry, STATE or the tokens does so in ACCEPTING, START aside; in DONE and
ERROR what is left are answers, rejections and the delivery of a byte. -/
theorem registryFrozenAfterOperation : Obligations.RegistryFrozenAfterOperation := by
  intro i s t hi hne hclosed hexec
  have hnot : s.state ≠ .accepting := by rcases hclosed with h | h <;> simp [h]
  cases exec_effect hexec with
  | answered | rejected | delivered => exact ⟨rfl, rfl, rfl, rfl, rfl, rfl⟩
  | opened => exact absurd rfl hne
  | stored _ hacc | chunkDone _ hacc | chunkRaised _ hacc | finished hacc | malformed hacc | paddedDone hacc
  | paddedRaised hacc => exact absurd hacc hnot
  | emitted _ _ htok | emitRaised _ htok => cases hi.symm.trans htok

end Sys2Proof.Machine
end

section
/-! PROOFS. The colours that the registry holds after a chunk scan: those of the pixels scanned, in the order of their
first occurrence (R105). -/

namespace Sys2Proof.Machine

/-! ## The colours of a pixel list -/

/-- The pixel needs no entry of its own in a registry of these real colours. -/
def Known (colours : List Pixel) (p : Pixel) : Prop := p = Config.sentinel ∨ p ∈ colours

/-- The real colours seen once the pixel has been met too: the step of `firstSeen`. -/
def addColour (colours : List Pixel) (p : Pixel) : List Pixel :=
  if p = Config.sentinel ∨ p ∈ colours then colours else colours ++ [p]

/-- The real colours seen once these pixels have been met too. -/
def addColours (colours pixels : List Pixel) : List Pixel := pixels.foldl addColour colours

theorem firstSeen_eq_addColours (pixels : List Pixel) : firstSeen pixels = addColours [] pixels := rfl

@[simp] theorem addColours_nil (cs : List Pixel) : addColours cs [] = cs := rfl

@[simp] theorem addColours_cons (cs : List Pixel) (p : Pixel) (ps : List Pixel) :
    addColours cs (p :: ps) = addColours (addColour cs p) ps := rfl

theorem addColours_append (cs ps qs : List Pixel) : addColours cs (ps ++ qs) = addColours (addColours cs ps) qs :=
  List.foldl_append

theorem addColour_of_known {cs : List Pixel} {p : Pixel} (h : Known cs p) : addColour cs p = cs := if_pos h

theorem addColour_of_new {cs : List Pixel} {p : Pixel} (h : ¬ Known cs p) : addColour cs p = cs ++ [p] := if_neg h

theorem known_addColour (cs : List Pixel) (p : Pixel) : Known (addColour cs p) p := by
  by_cases h : Known cs p
  · rwa [addColour_of_known h]
  · rw [addColour_of_new h]
    exact .inr (by simp)

theorem addColour_sublist (cs : List Pixel) (p : Pixel) : cs.Sublist (addColour cs p) := by
  by_cases h : Known cs p
  · rw [addColour_of_known h]
  · rw [addColour_of_new h]
    exact List.sublist_append_left cs [p]

/-- Colours are only ever added. -/
theorem addColours_sublist (cs ps : List Pixel) : cs.Sublist (addColours cs ps) := by
  induction ps generalizing cs with
  | nil => exact List.Sublist.refl cs
  | cons p ps ih => exact (addColour_sublist cs p).trans (ih (addColour cs p))

theorem length_le_addColours (cs ps : List Pixel) : cs.length ≤ (addColours cs ps).length :=
  (addColours_sublist cs ps).length_le

theorem Known.addColours {cs : List Pixel} {p : Pixel} (h : Known cs p) (ps : List Pixel) :
    Known (addColours cs ps) p :=
  h.imp_right fun hp => (addColours_sublist cs ps).subset hp

theorem addColours_of_known {cs ps : List Pixel} (h : ∀ p ∈ ps, Known cs p) : addColours cs ps = cs := by
  induction ps with
  | nil => rfl
  | cons p ps ih =>
    rw [addColours_cons, addColour_of_known (h p List.mem_cons_self)]
    exact ih fun q hq => h q (List.mem_cons_of_mem p hq)

/-! ## The window of a scan -/

/-- The pixels at the positions `head` to `tail`, in stream order. -/
def windowPixels (pixel : Nat → Pixel) (head tail : Nat) : List Pixel :=
  (List.range' head (tail + 1 - head)).map pixel

theorem windowPixels_of_lt (pixel : Nat → Pixel) {head tail : Nat} (h : tail < head) :
    windowPixels pixel head tail = [] := by
  simp [windowPixels, Nat.sub_eq_zero_of_le h]

theorem mem_windowPixels {pixel : Nat → Pixel} {head tail : Nat} {p : Pixel} :
    p ∈ windowPixels pixel head tail ↔ ∃ j, head ≤ j ∧ j ≤ tail ∧ pixel j = p := by
  simp only [windowPixels, List.mem_map, List.mem_range'_1]
  exact exists_congr fun j => by rw [← and_assoc]; exact and_congr_left fun _ => by omega

theorem windowPixels_append (pixel : Nat → Pixel) {head mid tail : Nat} (h1 : head ≤ mid + 1) (h2 : mid ≤ tail) :
    windowPixels pixel head tail = windowPixels pixel head mid ++ windowPixels pixel (mid + 1) tail := by
  have hsum : tail + 1 - head = mid + 1 - head + (tail + 1 - (mid + 1)) := by omega
  have hstart : head + (mid + 1 - head) = mid + 1 := by omega
  rw [windowPixels, windowPixels, windowPixels, ← List.map_append, hsum, ← List.range'_append_1, hstart]

theorem windowPixels_self (pixel : Nat → Pixel) (head : Nat) : windowPixels pixel head head = [pixel head] := by
  simp [windowPixels]

/-- The tail run consumes the baseline only (R123). -/
theorem eq_baseline_of_tailAfter_lt (pixel : Nat → Pixel) {head tail j : Nat} (h : head ≤ tail)
    (hj : tailAfter pixel head tail < j) (hj' : j ≤ tail) : pixel j = pixel head := by
  obtain ⟨-, -, hrun, -⟩ := tailRun_spec pixel (pixel head) head tail h
  exact hrun j hj hj'

/-- The head run consumes the baseline only (R124). -/
theorem eq_baseline_of_lt_headAfter (pixel : Nat → Pixel) {head tail j : Nat} (h : head ≤ tail)
    (hj : head ≤ j) (hj' : j < headAfter pixel head tail) : pixel j = pixel head := by
  have hle : head ≤ tailAfter pixel head tail := (scan_cursors pixel h).1
  obtain ⟨-, -, hrun, -⟩ := headRun_spec pixel (pixel head) (tailAfter pixel head tail) Config.chunk head (by omega)
  exact hrun j hj hj'

/-- Positions that all hold one known colour add none. -/
theorem addColours_windowPixels_of_known {pixel : Nat → Pixel} {head tail : Nat} {cs : List Pixel} {p : Pixel}
    (hp : Known cs p) (h : ∀ j, head ≤ j → j ≤ tail → pixel j = p) :
    addColours cs (windowPixels pixel head tail) = cs :=
  addColours_of_known fun q hq => by
    obtain ⟨j, hj, hj', rfl⟩ := mem_windowPixels.1 hq
    exact (h j hj hj').symm ▸ hp

/-- The runs of a scan step meet the baseline alone: the colours of a window are the baseline, then those of the window
that the step leaves (R122 to R124). -/
theorem addColours_windowPixels (pixel : Nat → Pixel) {head tail : Nat} (h : head ≤ tail) (cs : List Pixel) :
    addColours cs (windowPixels pixel head tail) =
      addColours (addColour cs (pixel head))
        (windowPixels pixel (headAfter pixel head tail) (tailAfter pixel head tail)) := by
  obtain ⟨b1, b2, b3, b4⟩ := scan_cursors pixel h
  obtain ⟨m, hm⟩ : ∃ m, headAfter pixel head tail = m + 1 := ⟨headAfter pixel head tail - 1, by omega⟩
  have hsplit : windowPixels pixel head tail =
      pixel head :: windowPixels pixel (head + 1) m ++ windowPixels pixel (m + 1) (tailAfter pixel head tail) ++
        windowPixels pixel (tailAfter pixel head tail + 1) tail := by
    rw [windowPixels_append pixel (by omega : head ≤ tailAfter pixel head tail + 1) b2,
      windowPixels_append pixel (by omega : head ≤ m + 1) (by omega),
      windowPixels_append pixel (Nat.le_succ head) (by omega : head ≤ m), windowPixels_self, List.singleton_append]
  have hbase : Known (addColour cs (pixel head)) (pixel head) := known_addColour _ _
  rw [hsplit, addColours_append, addColours_append, addColours_cons, hm,
    addColours_windowPixels_of_known hbase fun j hj hj' => eq_baseline_of_lt_headAfter pixel h (by omega) (by omega)]
  exact addColours_windowPixels_of_known (hbase.addColours _) fun j hj hj' =>
    eq_baseline_of_tailAfter_lt pixel h (by omega) hj'

/-! ## The registry's contents -/

/-- The registry holds exactly these real colours, in this order, behind the sentinel (R26, R27). -/
structure Registers (colours : List Pixel) (s : State) : Prop where
  size : s.palSize.toNat = colours.length + 1
  room : colours.length ≤ 7
  entry : ∀ k, k < colours.length → palAt s (k + 1) = colours[k]?

theorem Registers.congr {cs : List Pixel} {s t : State} (h : Registers cs s) (hpal : t.pal = s.pal)
    (hsize : t.palSize = s.palSize) : Registers cs t where
  size := by rw [hsize, h.size]
  room := h.room
  entry := fun k hk => by rw [palAt_congr hpal, h.entry k hk]

/-- A lookup misses exactly on a real colour that is not held. -/
theorem Registers.findEntry_eq_none {cs : List Pixel} {s : State} (h : Registers cs s) {p : Pixel} :
    findEntry p s = none ↔ ¬ Known cs p := by
  rw [Machine.findEntry_eq_none, h.size]
  constructor
  · rintro hmiss (rfl | hp)
    · exact hmiss 0 (Nat.succ_pos _) rfl
    · obtain ⟨k, hk, rfl⟩ := List.mem_iff_getElem.1 hp
      exact hmiss (k + 1) (by omega) (by rw [h.entry k hk, List.getElem?_eq_getElem hk])
  · intro hnew k hk hp
    cases k with
    | zero => exact hnew (.inl (Option.some.inj hp).symm)
    | succ k =>
      rw [h.entry k (by omega)] at hp
      exact hnew (.inr (List.mem_of_getElem? hp))

/-- An insert that has room moves PAL_SIZE up by one without a carry out of its 4 bits (R103). -/
theorem insertEntry_palSize_toNat (p : Pixel) {s : State} (h7 : s.palSize.toNat ≤ 7) :
    (insertEntry p s).palSize.toNat = s.palSize.toNat + 1 := by
  rw [insertEntry_palSize, BitVec.toNat_add]
  exact Nat.mod_eq_of_lt (by change s.palSize.toNat + 1 < 2 ^ 4; omega)

theorem Registers.insert {cs : List Pixel} {s : State} (h : Registers cs s) (p : Pixel) (h7 : s.palSize.toNat ≤ 7) :
    Registers (cs ++ [p]) (insertEntry p s) where
  size := by rw [insertEntry_palSize_toNat p h7, h.size, List.length_append, List.length_singleton]
  room := by
    have := h.size
    rw [List.length_append, List.length_singleton]
    omega
  entry := fun k hk => by
    have := h.size
    rw [List.length_append, List.length_singleton] at hk
    rw [palAt_insertEntry]
    by_cases hlast : k = cs.length
    · rw [if_pos (by omega), hlast, List.getElem?_concat_length]
    · rw [if_neg (by omega), h.entry k (by omega), List.getElem?_append_left (by omega)]

/-! ## What the internal operations make of the registry -/

/-- An operation that has met pixels of these colours: it completes with all of them in the registry, or raises
PALETTE_FULL, the registry full and the colours more than it can hold, or else finds a limited token buffer full. -/
def Collects {α : Type} (colours : List Pixel) : OpResult α → Prop
  | .ok _ t => Registers colours t
  | .raised c t =>
    (c = .paletteFull ∧ t.palSize = 8#4 ∧ 8 ≤ colours.length) ∨ (c = .outputOverflow ∧ t.params.tokCap ≠ .unbounded)

/-- LOOKUP_OR_INSERT adds the colour of its pixel (R101 to R104). -/
theorem lookupOrInsert_collects {cs : List Pixel} {s : State} (h : Registers cs s) (p : Pixel) :
    Collects (addColour cs p) (lookupOrInsert p s) := by
  obtain ⟨k, hfind, e⟩ | ⟨hmiss, h7, e⟩ | ⟨hmiss, h8, e⟩ := lookupOrInsert_cases p s
  · have hknown : Known cs p := by
      by_contra hnew
      cases hfind.symm.trans (h.findEntry_eq_none.2 hnew)
    rw [e, addColour_of_known hknown]
    exact h
  · rw [e, addColour_of_new (h.findEntry_eq_none.1 hmiss)]
    exact h.insert p h7
  · have hsize := h.size
    have hroom := h.room
    rw [e, addColour_of_new (h.findEntry_eq_none.1 hmiss)]
    refine .inl ⟨rfl, BitVec.eq_of_toNat_eq ?_, ?_⟩
    · change s.palSize.toNat = 8
      omega
    · rw [List.length_append, List.length_singleton]
      omega

/-- A scan step adds the colour of its baseline (R122). -/
theorem scanStep_collects {cs : List Pixel} {s : State} (h : Registers cs s) (hw : s.head.toNat ≤ s.tail.toNat) :
    Collects (addColour cs (chunkAt s s.head.toNat)) (scanStep s) := by
  have hlookup := lookupOrInsert_collects h (chunkAt s s.head.toNat)
  cases e : scanStep s with
  | ok u t =>
    obtain ⟨i, -, ⟨s1, hl, hpal, hsize⟩, -⟩ := scanStep_ok hw e
    rw [hl] at hlookup
    exact Registers.congr hlookup hpal hsize
  | raised c t =>
    obtain ⟨span, ⟨rfl, rfl, h8, hmiss⟩ | ⟨rfl, i, hcap⟩⟩ := scanStep_raised hw e
    · have hl : lookupOrInsert (chunkAt t t.head.toNat) t = .raised .paletteFull t := by
        simp [lookupOrInsert, hmiss, h8]
      rwa [hl] at hlookup
    · refine .inr ⟨rfl, fun hunb => ?_⟩
      rw [← span.params, hunb] at hcap
      cases hcap

/-- What a full registry has refused stays refused when more colours come. -/
theorem Collects.of_raised {α β : Type} {cs : List Pixel} {c : ErrCode} {t : State}
    (h : Collects cs (.raised c t : OpResult α)) (ps : List Pixel) :
    Collects (addColours cs ps) (.raised c t : OpResult β) :=
  h.imp_left fun ⟨hc, hsize, hlen⟩ => ⟨hc, hsize, hlen.trans (length_le_addColours cs ps)⟩

/-- A scan adds the colours of its window in stream order, though its steps take tail runs before inner pixels. -/
theorem scanLoop_collects (n : Nat) {cs : List Pixel} {s : State} (h : Registers cs s)
    (hn : s.tail.toNat + 1 ≤ s.head.toNat + n) :
    Collects (addColours cs (windowPixels (chunkAt s) s.head.toNat s.tail.toNat)) (scanLoop n s) := by
  induction n generalizing cs s with
  | zero =>
    rw [windowPixels_of_lt _ (by omega)]
    exact h
  | succ n ih =>
    rw [scanLoop]
    split
    · rename_i hw
      have hstep := scanStep_collects h hw
      rw [addColours_windowPixels _ hw]
      cases e : scanStep s with
      | ok u t =>
        rw [e] at hstep
        obtain ⟨i, span, -, hhead, htail⟩ := scanStep_ok hw e
        obtain ⟨-, b2, b3, -⟩ := scan_cursors (chunkAt s) hw
        have hrest := ih (s := t) hstep (by omega)
        rwa [chunkAt_congr span.chunkBuf, hhead, htail] at hrest
      | raised c t =>
        rw [e] at hstep
        exact hstep.of_raised _
    · rename_i hw
      rw [windowPixels_of_lt _ (by omega)]
      exact h

/-- ENCODE_CHUNK adds the colours of its chunk in stream order (R105, R120). -/
theorem encodeChunk_collects {cs : List Pixel} {s : State} (h : Registers cs s) :
    Collects (addColours cs ((List.range 64).map (chunkAt s))) (encodeChunk s) := by
  have hstart : Registers cs (setCursors 0 63 s) := h.congr rfl rfl
  have hloop := scanLoop_collects Config.chunk hstart (show 63 + 1 ≤ 0 + 64 by decide)
  have hwindow : windowPixels (chunkAt (setCursors 0 63 s)) 0 63 = (List.range 64).map (chunkAt s) := by
    rw [windowPixels, List.range_eq_range', chunkAt_congr (setCursors_chunkBuf s 0 63)]
  change Collects (addColours cs (windowPixels (chunkAt (setCursors 0 63 s)) 0 63)) _ at hloop
  rw [hwindow] at hloop
  unfold encodeChunk
  cases e : scanLoop Config.chunk (setCursors 0 63 s) with
  | ok u t =>
    rw [e] at hloop
    exact Registers.congr hloop rfl rfl
  | raised c t =>
    rw [e] at hloop
    exact hloop

end Sys2Proof.Machine
end

section
/-! PROOFS. A whole encode operation: how many colours it takes decides how it ends (O59), and what the registry then
holds (O60). -/

namespace Sys2Proof.Machine

/-! ## The pixels that wait for their chunk's scan -/

/-- The pixels of the current chunk, CHUNK_BUF[0..FILL-1] (R30, R31). -/
def pendingPixels (s : State) : List Pixel := (List.range s.fill.toNat).map (chunkAt s)

theorem pendingPixels_congr {s t : State} (hfill : t.fill = s.fill) (hbuf : t.chunkBuf = s.chunkBuf) :
    pendingPixels t = pendingPixels s := by
  rw [pendingPixels, pendingPixels, hfill, chunkAt_congr hbuf]

theorem pendingPixels_of_empty {s : State} (h : s.fill = 0) : pendingPixels s = [] := by
  simp [pendingPixels, h]

theorem pendingPixels_of_full {s : State} (h : s.fill = 64#7) : pendingPixels s = (List.range 64).map (chunkAt s) := by
  rw [pendingPixels, h]
  rfl

theorem storePixel_fill_toNat (p : Pixel) {s : State} (h : s.fill.toNat < 64) :
    (storePixel p s).fill.toNat = s.fill.toNat + 1 := by
  rw [storePixel_fill, BitVec.toNat_add]
  exact Nat.mod_eq_of_lt (by change s.fill.toNat + 1 < 2 ^ 7; omega)

theorem pendingPixels_storePixel (p : Pixel) {s : State} (h : s.fill.toNat < 64) :
    pendingPixels (storePixel p s) = pendingPixels s ++ [p] := by
  rw [pendingPixels, storePixel_fill_toNat p h, List.range_succ, List.map_append, List.map_singleton,
    chunkAt_storePixel p s h, if_pos rfl]
  refine congrArg (· ++ [p]) (List.map_congr_left fun j hj => ?_)
  have hlt : j < s.fill.toNat := List.mem_range.1 hj
  rw [chunkAt_storePixel p s (by omega), if_neg (by omega)]

/-- The padding adds sentinels behind the pixels of the partial chunk (R186). -/
theorem pendingPixels_padChunk {s : State} (h : s.fill.toNat < 64) :
    pendingPixels (padChunk s) = pendingPixels s ++ List.replicate (64 - s.fill.toNat) Config.sentinel := by
  apply List.ext_getElem
  · simp [pendingPixels]
    omega
  · intro j hj _
    have hj64 : j < 64 := by simpa [pendingPixels] using hj
    rw [List.getElem_append]
    simp only [pendingPixels, List.getElem_map, List.getElem_range, List.length_map, List.length_range,
      List.getElem_replicate, chunkAt_padChunk s hj64, dite_eq_ite]
    by_cases hlt : j < s.fill.toNat
    · rw [if_neg (by omega), if_pos hlt]
    · rw [if_pos (by omega), if_neg hlt]

/-! ## The registry in the course of an operation -/

/-- The registry holds the colours of the chunks scanned so far, and with those of the pending pixels they are the
colours of `pixels`, in the same order. -/
def Accounts (pixels : List Pixel) (s : State) : Prop :=
  ∃ colours, Registers colours s ∧ addColours colours (pendingPixels s) = firstSeen pixels

theorem Accounts.congr {ps : List Pixel} {s t : State} (h : Accounts ps s) (hpal : t.pal = s.pal)
    (hsize : t.palSize = s.palSize) (hfill : t.fill = s.fill) (hbuf : t.chunkBuf = s.chunkBuf) : Accounts ps t := by
  obtain ⟨cs, hreg, hcs⟩ := h
  exact ⟨cs, hreg.congr hpal hsize, by rw [pendingPixels_congr hfill hbuf, hcs]⟩

theorem Accounts.of_registers {ps : List Pixel} {s : State} (h : Registers (firstSeen ps) s) (hfill : s.fill = 0) :
    Accounts ps s :=
  ⟨firstSeen ps, h, by rw [pendingPixels_of_empty hfill, addColours_nil]⟩

theorem Accounts.registers {ps : List Pixel} {s : State} (h : Accounts ps s) (hfill : s.fill = 0) :
    Registers (firstSeen ps) s := by
  obtain ⟨cs, hreg, hcs⟩ := h
  rw [pendingPixels_of_empty hfill, addColours_nil] at hcs
  exact hcs ▸ hreg

theorem Accounts.storePixel {ps : List Pixel} {s : State} (h : Accounts ps s) (p : Pixel) (hroom : s.fill.toNat < 64) :
    Accounts (ps ++ [p]) (storePixel p s) := by
  obtain ⟨cs, hreg, hcs⟩ := h
  refine ⟨cs, hreg.congr rfl rfl, ?_⟩
  rw [pendingPixels_storePixel p hroom, addColours_append, hcs, firstSeen_eq_addColours, firstSeen_eq_addColours,
    addColours_append]

/-- The padding adds no colour. -/
theorem Accounts.padChunk {ps : List Pixel} {s : State} (h : Accounts ps s) (hroom : s.fill.toNat < 64) :
    Accounts ps (padChunk s) := by
  obtain ⟨cs, hreg, hcs⟩ := h
  refine ⟨cs, hreg.congr rfl rfl, ?_⟩
  rw [pendingPixels_padChunk hroom, addColours_append, hcs]
  exact addColours_of_known fun p hp => .inl (List.eq_of_mem_replicate hp)

theorem Accounts.encodeChunk {ps : List Pixel} {s : State} (h : Accounts ps s) (hfull : s.fill = 64#7) :
    Collects (firstSeen ps) (encodeChunk s) := by
  obtain ⟨cs, hreg, hcs⟩ := h
  rw [← hcs, pendingPixels_of_full hfull]
  exact encodeChunk_collects hreg

/-! ## The stages of an operation -/

/-- The parameters under which a full registry is the only error (R211 to R215). -/
def unlimited : Params := { padPolicy := .padSentinel, tokCap := .unbounded }

/-- The operation takes pixels and has taken `pixels`. -/
structure Accepting (pixels : List Pixel) (s : State) : Prop where
  state : s.state = .accepting
  err : s.err = .none
  fill : s.fill.toNat < 64
  colours : Accounts pixels s

/-- The operation has failed by the time the host has sent `pixels`: under unlimited parameters because their colours
are more than the registry holds. -/
structure Failed (pixels : List Pixel) (s : State) : Prop where
  state : s.state = .error
  cause : s.params = unlimited →
    s.err = .paletteFull ∧ s.outLen = 0 ∧ s.palSize = 8#4 ∧ 8 ≤ (firstSeen pixels).length

/-- The operation has ended with its output. -/
structure Finished (pixels : List Pixel) (s : State) : Prop where
  state : s.state = .done
  err : s.err = .none
  registers : Registers (firstSeen pixels) s

theorem Accepting.answer {ps : List Pixel} {s : State} (h : Accepting ps s) (v : ResultWord) :
    Accepting ps (answer v s) :=
  { h with colours := h.colours.congr rfl rfl rfl rfl }

theorem Accepting.takeIssue {ps : List Pixel} {s : State} (h : Accepting ps s) (f : Fetched) (rest : List PortEvent) :
    Accepting ps (takeIssue f rest s) where
  state := by rw [takeIssue_state, h.state]
  err := by rw [takeIssue_err, h.err]
  fill := by rw [takeIssue_fill]; exact h.fill
  colours := h.colours.congr (takeIssue_pal ..) (takeIssue_palSize ..) (takeIssue_fill ..) (takeIssue_chunkBuf ..)

theorem Failed.takeIssue {ps : List Pixel} {s : State} (h : Failed ps s) (f : Fetched) (rest : List PortEvent) :
    Failed ps (takeIssue f rest s) where
  state := by rw [takeIssue_state, h.state]
  cause := by
    rw [takeIssue_params, takeIssue_err, takeIssue_outLen, takeIssue_palSize]
    exact h.cause

theorem Failed.reject {ps : List Pixel} {s : State} (h : Failed ps s) : Failed ps (reject s) := ⟨h.state, h.cause⟩

theorem Failed.append {ps : List Pixel} {s : State} (h : Failed ps s) (qs : List Pixel) : Failed (ps ++ qs) s where
  state := h.state
  cause := fun hp => by
    obtain ⟨herr, hout, hsize, hlen⟩ := h.cause hp
    rw [firstSeen_eq_addColours, addColours_append]
    exact ⟨herr, hout, hsize, hlen.trans (length_le_addColours _ qs)⟩

/-- The error entry after a scan that raised (R220, R221). -/
theorem Collects.failed {ps : List Pixel} {c : ErrCode} {u : State}
    (h : Collects (firstSeen ps) (.raised c u : OpResult Unit)) : Failed ps (errorEntry c u) where
  state := rfl
  cause := fun hp => by
    obtain ⟨hc, hsize, hlen⟩ | ⟨-, hcap⟩ := h
    · exact ⟨hc, rfl, hsize, hlen⟩
    · exact absurd (congrArg Params.tokCap hp) hcap

/-- The scan of a full chunk leaves the operation open with an empty chunk, or fails it. -/
theorem encodeChunk_stage {ps : List Pixel} {s : State} (h : Accounts ps s) (hacc : s.state = .accepting)
    (herr : s.err = .none) (hfull : s.fill = 64#7) :
    (∃ u, encodeChunk s = .ok () u ∧ u.fill = 0 ∧ Accepting ps u) ∨
    (∃ c u, encodeChunk s = .raised c u ∧ Failed ps (errorEntry c u)) := by
  have hscan := h.encodeChunk hfull
  rcases encodeChunk_span s with ⟨u, bs, e, span, -⟩ | ⟨c, u, bs, e, -⟩
  · rw [e] at hscan
    exact .inl ⟨completeChunk u, e, rfl, span.state.trans hacc, span.err.trans herr, Nat.zero_lt_succ 63,
      .of_registers hscan rfl⟩
  · rw [e] at hscan
    exact .inr ⟨c, u, e, hscan.failed⟩

/-! ## The commands of an operation -/

theorem accepting_start (s : State) : Accepting [] (answerStatus (openOperation s)) where
  state := rfl
  err := rfl
  fill := Nat.zero_lt_succ 63
  colours := .of_registers ⟨rfl, Nat.zero_le 7, fun k hk => absurd hk (Nat.not_lt_zero k)⟩ rfl

theorem Accepting.pushPixel {ps : List Pixel} {s : State} (h : Accepting ps s) (p : Pixel) :
    ∃ t, exec (.pushPixel p) s = .next t ∧ (Accepting (ps ++ [p]) t ∨ Failed (ps ++ [p]) t) := by
  have hstored : Accounts (ps ++ [p]) (storePixel p s) := h.colours.storePixel p h.fill
  obtain ⟨hne, -⟩ | ⟨-, h64, -⟩ | ⟨-, -, e⟩ := execPushPixel_cases p s
  · exact absurd h.state hne
  · exact absurd h.fill (not_lt.2 h64)
  · refine ⟨_, e, ?_⟩
    by_cases hfull : (storePixel p s).fill = 64#7
    · rw [scanIfFull, if_pos hfull]
      rcases encodeChunk_stage hstored h.state h.err hfull with ⟨u, es, -, hu⟩ | ⟨c, u, es, hu⟩
      · rw [es]
        exact .inl (hu.answer _)
      · rw [es]
        exact .inr hu
    · rw [scanIfFull, if_neg hfull]
      have hne : (storePixel p s).fill.toNat ≠ 64 := fun h' => hfull (BitVec.eq_of_toNat_eq h')
      have hsucc := storePixel_fill_toNat p h.fill
      have hlt := h.fill
      have haccepting : Accepting (ps ++ [p]) (Machine.storePixel p s) := ⟨h.state, h.err, by omega, hstored⟩
      exact .inl (haccepting.answer _)

theorem Failed.pushPixel {ps : List Pixel} {s : State} (h : Failed ps s) (p : Pixel) :
    ∃ t, exec (.pushPixel p) s = .next t ∧ Failed (ps ++ [p]) t := by
  obtain ⟨-, e⟩ | ⟨hacc, -⟩ | ⟨hacc, -⟩ := execPushPixel_cases p s
  · exact ⟨_, e, h.reject.append [p]⟩
  all_goals cases h.state.symm.trans hacc

/-- The end of an operation that has no partial chunk left (R186). -/
theorem Accepting.finishOperation {ps : List Pixel} {s : State} (h : Accepting ps s) (hfill : s.fill = 0) :
    Finished ps (answerStatus (finishOperation s)) :=
  ⟨rfl, h.err, (h.colours.registers hfill).congr rfl rfl⟩

theorem Accepting.endInput {ps : List Pixel} {s : State} (h : Accepting ps s) :
    ∃ t, exec .endInput s = .next t ∧ (Finished ps t ∨ Failed ps t) := by
  obtain ⟨hne, -⟩ | ⟨-, h0, e⟩ | ⟨-, -, hrej, e⟩ | ⟨-, -, -, e⟩ := execEndInput_cases s
  · exact absurd h.state hne
  · exact ⟨_, e, .inl (h.finishOperation h0)⟩
  · refine ⟨_, e, .inr ⟨rfl, fun hp => ?_⟩⟩
    cases hrej.symm.trans (congrArg Params.padPolicy hp)
  · refine ⟨_, e, ?_⟩
    rcases encodeChunk_stage (h.colours.padChunk h.fill) h.state h.err rfl with ⟨u, es, hu0, hu⟩ | ⟨c, u, es, hu⟩
    · rw [es]
      exact .inl (hu.finishOperation hu0)
    · rw [es]
      exact .inr hu

theorem Failed.endInput {ps : List Pixel} {s : State} (h : Failed ps s) :
    ∃ t, exec .endInput s = .next t ∧ Failed ps t := by
  obtain ⟨-, e⟩ | ⟨hacc, -⟩ | ⟨hacc, -⟩ | ⟨hacc, -⟩ := execEndInput_cases s
  · exact ⟨_, e, h.reject⟩
  all_goals cases h.state.symm.trans hacc

/-! ## Runs -/

/-- No instruction touches what the host does next. -/
theorem Effect.port {s t : State} {i : Instr} (e : Effect s i t) : t.port = s.port := by
  cases e with
  | answered | rejected | opened | stored | finished | malformed | delivered | emitRaised => rfl
  | chunkDone _ _ hscan | chunkRaised _ _ _ hscan | paddedDone _ hscan | paddedRaised _ _ hscan =>
    obtain ⟨bs, span⟩ := hscan.span
    exact span.port
  | emitted _ bs => exact (ScanSpan.append bs s).port

theorem run_succ_of_step {M : Host.Core} {s t : M.State} (h : M.step s = .next t) (n : Nat) :
    M.run (n + 1) s = M.run n t := by
  rw [Host.Core.run, h]

/-- A run that goes on to its end took a first step. -/
theorem exists_step_of_run_succ {M : Host.Core} {s t : M.State} {n : Nat} (h : M.run (n + 1) s = .next t) :
    ∃ u, M.step s = .next u ∧ M.run n u = .next t := by
  rw [Host.Core.run] at h
  cases hstep : M.step s with
  | next u => exact ⟨u, rfl, by rwa [hstep] at h⟩
  | fault r => rw [hstep] at h; cases h
  | refused r => rw [hstep] at h; cases h

theorem run_params {n : Nat} {s t : State} (h : run n s = .next t) : t.params = s.params := by
  induction n generalizing s with
  | zero =>
    cases h
    rfl
  | succ n ih =>
    obtain ⟨u, hstep, hrun⟩ := exists_step_of_run_succ (M := core) h
    exact (ih hrun).trans (parametersNeverChange s u hstep)

/-- The first step of a run whose first event issues an instruction, and what is left for the steps after it. -/
theorem run_issueOf {s t : State} {i : Instr} {rest : List PortEvent} (hp : s.port = issueOf i :: rest)
    (hexec : exec i (takeIssue (encode i) rest s) = .next t) (n : Nat) :
    run (n + 1) s = run n t ∧ t.port = rest := by
  have hstep : step s = runFetched (encode i) (takeIssue (encode i) rest s) := by
    rw [step, hp]
    rfl
  rw [runFetched, decode_encode] at hstep
  exact ⟨run_succ_of_step (M := core) (hstep.trans hexec) n, (exec_effect hexec).port.trans (takeIssue_port ..)⟩

/-- The PUSH_PIXELs of an operation are all executed, before a failure and after it. -/
theorem run_pushPixels (qs : List Pixel) {ps : List Pixel} {s : State} {rest : List PortEvent}
    (hp : s.port = (qs.map fun p => issueOf (.pushPixel p)) ++ rest) (h : Accepting ps s ∨ Failed ps s) (n : Nat) :
    ∃ t, run (qs.length + n) s = run n t ∧ t.port = rest ∧ (Accepting (ps ++ qs) t ∨ Failed (ps ++ qs) t) := by
  induction qs generalizing ps s with
  | nil => exact ⟨s, by rw [List.length_nil, Nat.zero_add], hp, by rwa [List.append_nil]⟩
  | cons q qs ih =>
    have hpush : ∃ t, exec (.pushPixel q) (takeIssue (encode (.pushPixel q))
        ((qs.map fun p => issueOf (.pushPixel p)) ++ rest) s) = .next t ∧
        (Accepting (ps ++ [q]) t ∨ Failed (ps ++ [q]) t) := by
      rcases h with h | h
      · exact (h.takeIssue _ _).pushPixel q
      · obtain ⟨t, e, ht⟩ := (h.takeIssue _ _).pushPixel q
        exact ⟨t, e, .inr ht⟩
    obtain ⟨t, e, ht⟩ := hpush
    obtain ⟨hrun, hport⟩ := run_issueOf hp e (qs.length + n)
    obtain ⟨u, hrun', hport', hu⟩ := ih hport ht
    refine ⟨u, ?_, hport', by rwa [List.append_assoc] at hu⟩
    rw [List.length_cons, Nat.add_right_comm, hrun, hrun']

/-- An encode operation runs to its end from any state, finished or failed (R190). -/
theorem run_encodeOperation {s : State} {pixels : List Pixel} (hp : s.port = encodeOperation pixels) :
    ∃ t, run (pixels.length + 2) s = .next t ∧ (Finished pixels t ∨ Failed pixels t) := by
  obtain ⟨hstart, hport⟩ := run_issueOf (i := .start) hp rfl (pixels.length + 1)
  obtain ⟨t, hpush, hport', ht⟩ := run_pushPixels pixels hport (.inl (accepting_start _)) 1
  rw [List.nil_append] at ht
  have hend : ∃ u, exec .endInput (takeIssue (encode .endInput) [] t) = .next u ∧
      (Finished pixels u ∨ Failed pixels u) := by
    rcases ht with h | h
    · exact (h.takeIssue _ _).endInput
    · obtain ⟨u, e, hu⟩ := (h.takeIssue _ _).endInput
      exact ⟨u, e, .inr hu⟩
  obtain ⟨u, e, hu⟩ := hend
  exact ⟨u, by rw [hstart, hpush, (run_issueOf hport' e 0).1]; rfl, hu⟩

/-- Settles O59: the registry of a finished operation holds its colours, so that they are at most 7; a failed one has
met at least 8. -/
theorem paletteCeilingDecidesOutcome : Obligations.PaletteCeilingDecidesOutcome := by
  intro s pixels hparams hp
  obtain ⟨t, hrun, hfin | hfail⟩ := run_encodeOperation hp
  · have hroom := hfin.registers.room
    exact ⟨t, hrun, fun _ => ⟨hfin.state, hfin.err⟩, fun h8 => by omega⟩
  · obtain ⟨herr, hout, hsize, h8⟩ := hfail.cause ((run_params hrun).trans hparams)
    exact ⟨t, hrun, fun h7 => by omega, fun _ => ⟨hfail.state, herr, hout, hsize⟩⟩

/-- Settles O60: a scan adds its chunk's colours in stream order (`encodeChunk_collects`), and a finished operation has
scanned all its pixels. -/
theorem registryHoldsColoursInFirstSeenOrder : Obligations.RegistryHoldsColoursInFirstSeenOrder := by
  intro s t pixels hp hrun hdone
  obtain ⟨u, hrun', hend⟩ := run_encodeOperation hp
  cases hrun'.symm.trans hrun
  rcases hend with hfin | hfail
  · exact ⟨hfin.registers.size, hfin.registers.entry⟩
  · cases hdone.symm.trans hfail.state

end Sys2Proof.Machine
end

section
/-! PROOFS. The runs of a chunk (R121 to R130), about the pixels alone: the bounds of every scan step (O35), the
baselines of consecutive tokens (O37), and how many bytes the tokens take (O38). -/

namespace Sys2Proof.Machine

/-! ## One scan step -/

section
variable (pixel : Nat → Pixel) {head tail : Nat}

/-- The tail run ends at the head cursor or at another pixel (R123). -/
theorem tailAfter_stop (h : head ≤ tail) (hne : tailAfter pixel head tail ≠ head) :
    pixel (tailAfter pixel head tail) ≠ pixel head := by
  obtain ⟨-, -, -, hstop⟩ := tailRun_spec pixel (pixel head) head tail h
  exact hstop hne

/-- The head run ends behind the tail cursor or at another pixel, as 64 rounds never are too few for it (R124). -/
theorem headAfter_stop (h : head ≤ tail) (h63 : tail ≤ 63)
    (hle : headAfter pixel head tail ≤ tailAfter pixel head tail) :
    pixel (headAfter pixel head tail) ≠ pixel head := by
  obtain ⟨b1, b2, -, -⟩ := scan_cursors pixel h
  obtain ⟨-, -, -, hstop⟩ :=
    headRun_spec pixel (pixel head) (tailAfter pixel head tail) Config.chunk head (by omega)
  exact hstop (by change _ ≤ head + 64; omega) hle

end

/-- Settles O35: the bounds of both runs, what they consume, and where they stop. -/
theorem scanStepBounds : Obligations.ScanStepBounds := by
  intro pixel head tail h h63
  obtain ⟨b1, b2, b3, b4⟩ := scan_cursors pixel h
  obtain ⟨hhead, htail⟩ := scan_lengths pixel h h63
  exact ⟨⟨b1, b2, b3, b4⟩, by omega, hhead, htail, fun _ => eq_baseline_of_tailAfter_lt pixel h,
    fun _ => eq_baseline_of_lt_headAfter pixel h, tailAfter_stop pixel h, headAfter_stop pixel h h63⟩

/-! ## The runs of a window -/

/-- The runs of the scan step at a window. -/
def firstRun (pixel : Nat → Pixel) (head tail : Nat) : Run :=
  ⟨pixel head, headAfter pixel head tail - head, tail - tailAfter pixel head tail⟩

section
variable (pixel : Nat → Pixel) (n : Nat) {head tail : Nat}

theorem windowRuns_of_lt (h : tail < head) : windowRuns pixel n head tail = [] := by
  cases n with
  | zero => rfl
  | succ n => exact if_neg (by omega)

theorem windowRuns_of_le (h : head ≤ tail) :
    windowRuns pixel (n + 1) head tail =
      firstRun pixel head tail :: windowRuns pixel n (headAfter pixel head tail) (tailAfter pixel head tail) :=
  if_pos h

/-- The first run of a window has the head pixel as its baseline (R122). -/
theorem baseline_of_mem_head?_windowRuns {r : Run} (hr : r ∈ (windowRuns pixel n head tail).head?) :
    head ≤ tail ∧ r.baseline = pixel head := by
  by_cases h : head ≤ tail
  · cases n with
    | zero => cases hr
    | succ n =>
      rw [windowRuns_of_le pixel n h] at hr
      cases hr
      exact ⟨h, rfl⟩
  · rw [windowRuns_of_lt pixel n (by omega)] at hr
    cases hr

/-- The lengths of every run fit a token (R125). -/
theorem lengthsFit_of_mem_windowRuns (h63 : tail ≤ 63) {r : Run} (hr : r ∈ windowRuns pixel n head tail) :
    lengthsFit r.headLength r.tailLength = true := by
  induction n generalizing head tail with
  | zero => cases hr
  | succ n ih =>
    by_cases h : head ≤ tail
    · obtain ⟨b1, b2, b3, b4⟩ := scan_cursors pixel h
      rw [windowRuns_of_le pixel n h, List.mem_cons] at hr
      rcases hr with rfl | hr
      · obtain ⟨hhead, htail⟩ := scan_lengths pixel h h63
        exact decide_eq_true ⟨Nat.le_sub_of_add_le' b3, hhead, htail⟩
      · exact ih (b2.trans h63) hr
    · rw [windowRuns_of_lt pixel _ (by omega)] at hr
      cases hr

/-- Where a run ends inside its window, the next begins at another pixel (R129). -/
theorem windowRuns_isChain (h63 : tail ≤ 63) :
    (windowRuns pixel n head tail).IsChain fun a b => a.baseline ≠ b.baseline := by
  induction n generalizing head tail with
  | zero => exact .nil
  | succ n ih =>
    by_cases h : head ≤ tail
    · obtain ⟨-, b2, -, -⟩ := scan_cursors pixel h
      rw [windowRuns_of_le pixel n h, List.isChain_cons]
      refine ⟨fun r hr => ?_, ih (b2.trans h63)⟩
      obtain ⟨hle, hbase⟩ := baseline_of_mem_head?_windowRuns pixel n hr
      rw [hbase]
      exact (headAfter_stop pixel h h63 hle).symm
    · rw [windowRuns_of_lt pixel _ (by omega)]
      exact .nil

end

/-- Settles O37: the runs of a chunk are a chain of different baselines. -/
theorem consecutiveTokensDiffer : Obligations.ConsecutiveTokensDiffer := by
  intro pixel n a b ha hb
  obtain ⟨_, rfl⟩ := List.getElem?_eq_some_iff.1 ha
  obtain ⟨hn, rfl⟩ := List.getElem?_eq_some_iff.1 hb
  exact (windowRuns_isChain pixel Config.chunk le_rfl).getElem n hn

/-! ## The pixels of the runs, put back in place -/

theorem length_runPixels (rs : List Run) : (runPixels rs).length = (rs.map Run.consumed).sum := by
  induction rs with
  | nil => rfl
  | cons r rs ih =>
    simp only [runPixels, List.length_append, List.length_replicate, ih, List.map_cons, List.sum_cons, Run.consumed]
    omega

theorem windowPixels_eq_replicate {pixel : Nat → Pixel} {head tail : Nat} {p : Pixel}
    (h : ∀ j, head ≤ j → j ≤ tail → pixel j = p) :
    windowPixels pixel head tail = List.replicate (tail + 1 - head) p := by
  refine List.eq_replicate_iff.2 ⟨by simp [windowPixels], fun q hq => ?_⟩
  obtain ⟨j, hj, hj', rfl⟩ := mem_windowPixels.1 hq
  exact h j hj hj'

/-- A window is its head run, the window that the scan step leaves, and its tail run (R122 to R124). -/
theorem windowPixels_firstRun (pixel : Nat → Pixel) {head tail : Nat} (h : head ≤ tail) :
    windowPixels pixel head tail =
      List.replicate (firstRun pixel head tail).headLength (pixel head) ++
        windowPixels pixel (headAfter pixel head tail) (tailAfter pixel head tail) ++
        List.replicate (firstRun pixel head tail).tailLength (pixel head) := by
  obtain ⟨b1, b2, b3, b4⟩ := scan_cursors pixel h
  obtain ⟨m, hm⟩ : ∃ m, headAfter pixel head tail = m + 1 := ⟨headAfter pixel head tail - 1, by omega⟩
  have hheadRun : windowPixels pixel head m = List.replicate (m + 1 - head) (pixel head) :=
    windowPixels_eq_replicate fun j hj hj' => eq_baseline_of_lt_headAfter pixel h hj (by omega)
  have htailRun : windowPixels pixel (tailAfter pixel head tail + 1) tail =
      List.replicate (tail + 1 - (tailAfter pixel head tail + 1)) (pixel head) :=
    windowPixels_eq_replicate fun j hj hj' => eq_baseline_of_tailAfter_lt pixel h hj hj'
  rw [windowPixels_append pixel (by omega : head ≤ tailAfter pixel head tail + 1) b2,
    windowPixels_append pixel (by omega : head ≤ m + 1) (by omega), hheadRun, htailRun, firstRun, hm,
    Nat.add_sub_add_right]

/-- With rounds enough for the window, the runs put back in place are its pixels (R127). -/
theorem runPixels_windowRuns (pixel : Nat → Pixel) (n : Nat) {head tail : Nat} (hn : tail + 1 ≤ head + n) :
    runPixels (windowRuns pixel n head tail) = windowPixels pixel head tail := by
  induction n generalizing head tail with
  | zero => rw [windowPixels_of_lt pixel (by omega), windowRuns, runPixels]
  | succ n ih =>
    by_cases h : head ≤ tail
    · obtain ⟨-, b2, b3, -⟩ := scan_cursors pixel h
      rw [windowRuns_of_le pixel n h, runPixels, ih (by omega), windowPixels_firstRun pixel h]
      rfl
    · rw [windowPixels_of_lt pixel (by omega), windowRuns_of_lt pixel _ (by omega), runPixels]

/-! ## The runs of a chunk -/

theorem runPixels_chunkRuns (pixel : Nat → Pixel) : runPixels (chunkRuns pixel) = (List.range 64).map pixel := by
  rw [chunkRuns, runPixels_windowRuns pixel Config.chunk le_rfl, windowPixels, List.range_eq_range']

/-- The runs of a chunk consume 64 pixels (R127). -/
theorem consumed_chunkRuns (pixel : Nat → Pixel) : ((chunkRuns pixel).map Run.consumed).sum = 64 := by
  rw [← length_runPixels, runPixels_chunkRuns, List.length_map, List.length_range]

theorem chunkRuns_lengths (pixel : Nat → Pixel) {r : Run} (hr : r ∈ chunkRuns pixel) :
    1 ≤ r.headLength ∧ r.headLength ≤ 63 ∧ r.tailLength ≤ 63 :=
  of_decide_eq_true (lengthsFit_of_mem_windowRuns pixel Config.chunk le_rfl hr)

theorem chunkRuns_ne_nil (pixel : Nat → Pixel) : chunkRuns pixel ≠ [] := fun hnil => by
  have hsum := consumed_chunkRuns pixel
  rw [hnil] at hsum
  cases hsum

/-- A token takes at least a byte, and none more than the pixels it consumes; a chunk of one token only is one of the
long form, as no head run takes all 64 pixels (R130). -/
theorem chunkRuns_bytes (pixel : Nat → Pixel) (index : Pixel → PalIndex) :
    2 ≤ ((chunkRuns pixel).flatMap fun r => packToken (index r.baseline) r.headLength r.tailLength).length ∧
    ((chunkRuns pixel).flatMap fun r => packToken (index r.baseline) r.headLength r.tailLength).length ≤ 64 := by
  have hbytes : ∀ r ∈ chunkRuns pixel, 1 ≤ (packToken (index r.baseline) r.headLength r.tailLength).length ∧
      (packToken (index r.baseline) r.headLength r.tailLength).length ≤ r.consumed := fun r hr =>
    packToken_length_le _ (chunkRuns_lengths pixel hr).1
  have hsum := consumed_chunkRuns pixel
  rw [List.length_flatMap]
  refine ⟨?_, hsum ▸ List.sum_le_sum fun r hr => (hbytes r hr).2⟩
  cases hruns : chunkRuns pixel with
  | nil => exact absurd hruns (chunkRuns_ne_nil pixel)
  | cons r rs =>
    rw [hruns] at hbytes hsum
    have hr := (hbytes r List.mem_cons_self).1
    cases rs with
    | nil =>
      obtain ⟨-, hhead, -⟩ := chunkRuns_lengths pixel (hruns ▸ List.mem_cons_self : r ∈ chunkRuns pixel)
      have htail : r.tailLength ≠ 0 := by
        simp only [List.map_cons, List.map_nil, List.sum_cons, List.sum_nil, Run.consumed] at hsum
        omega
      simp [packToken_length, htail]
    | cons r' rs =>
      have hr' := (hbytes r' (by simp)).1
      simp only [List.map_cons, List.sum_cons]
      omega

/-- Settles O38. -/
theorem chunkTakesTwoToSixtyFourBytes : Obligations.ChunkTakesTwoToSixtyFourBytes := chunkRuns_bytes

end Sys2Proof.Machine
end

section
/-! PROOFS. What a chunk scan that completes has done: its runs consume the chunk (O36) and its tokens stand in the
token buffer (O39); the scan of a uniform chunk (O40). -/

namespace Sys2Proof.Machine

/-! ## The loop of the scan -/

/-- The scan ends once the cursors have crossed (R121). -/
theorem scanLoop_of_lt (n : Nat) {s : State} (h : s.tail.toNat < s.head.toNat) : scanLoop n s = .ok () s := by
  cases n with
  | zero => rfl
  | succ n => exact if_neg (by omega)

/-- While the window is not empty the scan does a step and goes on (R121). -/
theorem scanLoop_of_le (n : Nat) {s : State} (h : s.head.toNat ≤ s.tail.toNat) :
    scanLoop (n + 1) s = (scanStep s).andThen fun _ t => scanLoop n t := if_pos h

/-- A scan that completes has closed its window exactly (R125, R127). -/
theorem scanLoop_cursors (n : Nat) {s t : State} (hw : s.head.toNat ≤ s.tail.toNat + 1)
    (hn : s.tail.toNat + 1 ≤ s.head.toNat + n) (h : scanLoop n s = .ok () t) : t.head.toNat = t.tail.toNat + 1 := by
  induction n generalizing s with
  | zero =>
    cases h
    omega
  | succ n ih =>
    by_cases hle : s.head.toNat ≤ s.tail.toNat
    · rw [scanLoop_of_le n hle] at h
      obtain ⟨_, u, hstep, hloop⟩ := OpResult.andThen_eq_ok h
      obtain ⟨_, -, -, hhead, htail⟩ := scanStep_ok hle hstep
      obtain ⟨-, b2, b3, b4⟩ := scan_cursors (chunkAt s) hle
      exact ih (by omega) (by omega) hloop
    · rw [scanLoop_of_lt _ (by omega)] at h
      cases h
      omega

/-- ENCODE_CHUNK completes exactly with its scan (R120, R128). -/
theorem encodeChunk_eq_ok {s t : State} (h : encodeChunk s = .ok () t) :
    ∃ u, scanLoop Config.chunk (setCursors 0 63 s) = .ok () u ∧ t = completeChunk u := by
  obtain ⟨_, u, hloop, hdone⟩ := OpResult.andThen_eq_ok h
  cases hdone
  exact ⟨u, hloop, rfl⟩

/-- Settles O36: the runs put back in place are the chunk, and each takes a pixel at least; the cursors are those that
the scan's loop ends with. -/
theorem tokensConsumeChunkExactly : Obligations.TokensConsumeChunkExactly := by
  refine ⟨fun pixel => ?_, fun s t h => ?_⟩
  · have hsum := consumed_chunkRuns pixel
    have hle : (chunkRuns pixel).length ≤ ((chunkRuns pixel).map Run.consumed).sum := by
      rw [← List.length_map (f := Run.consumed)]
      refine List.length_le_sum_of_one_le _ fun c hc => ?_
      obtain ⟨r, hr, rfl⟩ := List.mem_map.1 hc
      exact le_add_right (chunkRuns_lengths pixel hr).1
    exact ⟨List.length_pos_iff.2 (chunkRuns_ne_nil pixel), hsum ▸ hle, hsum, runPixels_chunkRuns pixel⟩
  · obtain ⟨u, hloop, rfl⟩ := encodeChunk_eq_ok h
    change u.head.toNat = u.tail.toNat + 1
    exact scanLoop_cursors Config.chunk (s := setCursors 0 63 s) (Nat.zero_le _) le_rfl hloop

/-! ## The index of a baseline -/

/-- An entry that is found stays found at its index when entries are added behind (R103). -/
theorem ScanSpan.findEntry {s t : State} {bs : List Byte} (h : ScanSpan s t bs) {p : Pixel} {k : Nat}
    (hk : findEntry p s = some k) : findEntry p t = some k := by
  obtain ⟨hlt, hp, hlowest⟩ := findEntry_eq_some.1 hk
  refine findEntry_eq_some.2 ⟨hlt.trans_le h.palSize, ?_, fun j hj => ?_⟩
  · rw [h.pal k (.inl hlt), hp]
  · rw [h.pal j (.inl (hj.trans hlt))]
    exact hlowest j hj

theorem findEntry_congr {s t : State} (hpal : t.pal = s.pal) (hsize : t.palSize = s.palSize) (p : Pixel) :
    findEntry p t = findEntry p s := by
  simp only [findEntry, hsize, palAt_congr hpal]

/-- An inserted pixel is found where the insert put it (R103). -/
theorem findEntry_insertEntry {p : Pixel} {s : State} (hmiss : findEntry p s = none) (h1 : 1 ≤ s.palSize.toNat)
    (h7 : s.palSize.toNat ≤ 7) : findEntry p (insertEntry p s) = some s.palSize.toNat := by
  rw [findEntry_eq_some, insertEntry_palSize_toNat p h7]
  refine ⟨Nat.lt_succ_self _, ?_, fun j hj => ?_⟩
  · rw [palAt_insertEntry, if_pos ⟨rfl, h1, h7⟩]
  · rw [palAt_insertEntry, if_neg fun hc => hj.ne hc.1]
    exact findEntry_eq_none.1 hmiss j hj

/-- The index that a lookup answers is the one its pixel has in the registry it leaves (R101 to R103). -/
theorem lookupOrInsert_index {p : Pixel} {s t : State} {i : PalIndex} (h1 : 1 ≤ s.palSize.toNat)
    (h : lookupOrInsert p s = .ok i t) : ∃ k, findEntry p t = some k ∧ i = BitVec.ofNat 3 k := by
  obtain ⟨k, hfind, e⟩ | ⟨hmiss, h7, e⟩ | ⟨-, -, e⟩ := lookupOrInsert_cases p s <;> cases e.symm.trans h
  · exact ⟨k, hfind, rfl⟩
  · exact ⟨_, findEntry_insertEntry hmiss h1 h7, rfl⟩

/-! ## The tokens of a scan -/

/-- A scan step that completes has appended the token of its window's first run, the index read from the registry of any
later state of the scan (R126). -/
theorem scanStep_emits {s t : State} (h1 : 1 ≤ s.palSize.toNat) (hw : s.head.toNat ≤ s.tail.toNat)
    (h : scanStep s = .ok () t) {u : State} {bs : List Byte} (hu : ScanSpan t u bs) :
    ScanSpan s t (runBytes u (firstRun (chunkAt s) s.head.toNat s.tail.toNat)) := by
  obtain ⟨i, span, ⟨s1, hlookup, hpal, hsize⟩, -⟩ := scanStep_ok hw h
  obtain ⟨k, hfind, rfl⟩ := lookupOrInsert_index h1 hlookup
  have hlast : findEntry (chunkAt s s.head.toNat) u = some k :=
    hu.findEntry ((findEntry_congr hpal hsize _).trans hfind)
  rw [runBytes, firstRun, hlast]
  exact span

/-- A scan that completes has appended the tokens of its window's runs, in the order of its steps, the indices read from
the registry it leaves (R121, R126, R153). -/
theorem scanLoop_emits (n : Nat) {s t : State} (h1 : 1 ≤ s.palSize.toNat) (h : scanLoop n s = .ok () t) :
    ScanSpan s t ((windowRuns (chunkAt s) n s.head.toNat s.tail.toNat).flatMap (runBytes t)) := by
  induction n generalizing s with
  | zero =>
    cases h
    exact ScanSpan.refl _
  | succ n ih =>
    by_cases hw : s.head.toNat ≤ s.tail.toNat
    · rw [scanLoop_of_le n hw] at h
      obtain ⟨_, u, hstep, hloop⟩ := OpResult.andThen_eq_ok h
      obtain ⟨_, hspan, -, hhead, htail⟩ := scanStep_ok hw hstep
      have hrest := ih (h1.trans hspan.palSize) hloop
      have hfirst := scanStep_emits h1 hw hstep hrest
      rw [chunkAt_congr hspan.chunkBuf, hhead, htail] at hrest
      rw [windowRuns_of_le _ n hw, List.flatMap_cons]
      exact hfirst.trans hrest
    · rw [scanLoop_of_lt _ (by omega)] at h
      cases h
      rw [windowRuns_of_lt _ _ (by omega)]
      exact ScanSpan.refl _

/-! ## What a span has appended, where 32 bits hold the length -/

section
variable {s t : State} {bs : List Byte} (h : ScanSpan s t bs) (hlen : s.tokLen.toNat + bs.length < 2 ^ 32)
include h hlen

theorem ScanSpan.tokLen_toNat : t.tokLen.toNat = s.tokLen.toNat + bs.length := by
  obtain ⟨htokLen, -⟩ := appendBytes_tokLen hlen
  rw [h.tokLen, htokLen]

/-- The bytes appended stand at the old TOK_LEN and above, in order (R153). -/
theorem ScanSpan.read_appended {n : Nat} (hn : n < bs.length) :
    Memory.read t.tokBuf (s.tokLen.toNat + n) = bs[n]? := by
  rw [h.tokBuf, appendBytes_read hlen, if_pos (by omega), Nat.add_sub_cancel_left]

/-- What a span leaves as it was. -/
theorem ScanSpan.scanFrame : ScanFrame s t :=
  { h with
    tokBuf := fun a ha => by
      rw [h.tokLen_toNat hlen] at ha
      rw [h.tokBuf, appendBytes_read hlen, if_neg (by omega)] }

end

/-- Chunk completion is no change that the frame sees (R128). -/
theorem ScanFrame.completeChunk {s t : State} (h : ScanFrame s t) : ScanFrame s (completeChunk t) :=
  { h with }

/-- Settles O39: the scan's span names the bytes appended, and the chunk's tokens take at most 64 of them. -/
theorem scanEmitsTheChunksTokens : Obligations.ScanEmitsTheChunksTokens := by
  intro s t h1 _ hroom h
  obtain ⟨u, hloop, rfl⟩ := encodeChunk_eq_ok h
  have hspan : ScanSpan s u ((chunkRuns (chunkAt s)).flatMap (runBytes u)) :=
    (ScanSpan.setCursors 0 63 s).trans (scanLoop_emits Config.chunk (s := setCursors 0 63 s) h1 hloop)
  have hbytes : ((chunkRuns (chunkAt s)).flatMap (runBytes u)).length ≤ 64 :=
    (chunkRuns_bytes (chunkAt s) fun p => BitVec.ofNat 3 ((findEntry p u).getD 0)).2
  have hlen : s.tokLen.toNat + ((chunkRuns (chunkAt s)).flatMap (runBytes u)).length < 2 ^ 32 := by omega
  refine ⟨hspan.tokLen_toNat hlen, fun n => hspan.read_appended hlen, rfl, ?_, (hspan.scanFrame hlen).completeChunk⟩
  rw [completeChunk_chunks, hspan.chunks]

/-! ## A uniform chunk -/

/-- The scan of a uniform window stops its tail run at the head, and its head run takes the one pixel left (R134). -/
theorem firstRun_of_uniform {pixel : Nat → Pixel} {head tail : Nat} {p : Pixel} (h : head ≤ tail)
    (hp : ∀ j, head ≤ j → j ≤ tail → pixel j = p) :
    tailAfter pixel head tail = head ∧ headAfter pixel head tail = head + 1 := by
  obtain ⟨b1, b2, b3, b4⟩ := scan_cursors pixel h
  have htail : tailAfter pixel head tail = head := by
    by_contra hne
    exact tailAfter_stop pixel h hne ((hp _ b1 b2).trans (hp head le_rfl h).symm)
  exact ⟨htail, by omega⟩

/-- A lookup does not look at the cursors. -/
theorem lookupOrInsert_setCursors {p : Pixel} {s t : State} {i : PalIndex} (h : lookupOrInsert p s = .ok i t)
    (hd tl : Nat) : lookupOrInsert p (setCursors hd tl s) = .ok i (setCursors hd tl t) := by
  have hfind : findEntry p (setCursors hd tl s) = findEntry p s := findEntry_congr rfl rfl p
  obtain ⟨k, hk, e⟩ | ⟨hmiss, h7, e⟩ | ⟨-, -, e⟩ := lookupOrInsert_cases p s <;> cases e.symm.trans h
  · exact lookupOrInsert_of_found (hfind.trans hk)
  · obtain ⟨k, hk, -⟩ | ⟨-, -, e'⟩ | ⟨-, h8, -⟩ := lookupOrInsert_cases p (setCursors hd tl s)
    · cases (hfind.trans hmiss).symm.trans hk
    · exact e'
    · exact absurd h7 (Nat.not_le.2 h8)

/-- The two bytes of TOK(i, 1, 63) (R77, R134). -/
theorem packToken_one_sixtyThree (i : PalIndex) : packToken i 1 63 = [i ++ 0b1#1 ++ 0b0000#4, 0x7F#8] := by
  change [highByte (longWord i 1#6 63#6), lowByte (longWord i 1#6 63#6)] = _
  rw [highByte_longWord, lowByte_longWord]
  rfl

/-- A scan step whose lookup answers ends as EMIT_TOKEN ends (R122 to R126). -/
theorem scanStep_of_lookup {s s1 : State} {i : PalIndex} (h : lookupOrInsert (chunkAt s s.head.toNat) s = .ok i s1) :
    scanStep s =
      emitToken i (headAfter (chunkAt s) s.head.toNat s.tail.toNat - s.head.toNat)
        (s.tail.toNat - tailAfter (chunkAt s) s.head.toNat s.tail.toNat)
        (setCursors (headAfter (chunkAt s) s.head.toNat s.tail.toNat)
          (tailAfter (chunkAt s) s.head.toNat s.tail.toNat) s1) := by
  rw [scanStep, h]
  rfl

/-- The state after the one scan step of a uniform chunk, when the lookup has answered `i` and left `s1`. -/
def uniformScanned (i : PalIndex) (s1 : State) : State := appendBytes (packToken i 1 63) (setCursors 1 0 s1)

theorem uniformScanned_pal (i : PalIndex) (s1 : State) : (uniformScanned i s1).pal = s1.pal := by
  rw [uniformScanned, appendBytes_frame]
  rfl

theorem uniformScanned_palSize (i : PalIndex) (s1 : State) : (uniformScanned i s1).palSize = s1.palSize := by
  rw [uniformScanned, appendBytes_frame]
  rfl

/-- The cursors have crossed. -/
theorem uniformScanned_tail_lt_head (i : PalIndex) (s1 : State) :
    (uniformScanned i s1).tail.toNat < (uniformScanned i s1).head.toNat := by
  rw [uniformScanned, appendBytes_frame]
  exact Nat.zero_lt_one

theorem uniformScanned_span {p : Pixel} {i : PalIndex} {s s1 : State} (hlookup : lookupOrInsert p s = .ok i s1) :
    ScanSpan s (uniformScanned i s1) (packToken i 1 63) :=
  ((lookupOrInsert_span hlookup).trans (ScanSpan.setCursors 1 0 s1)).trans (ScanSpan.append _ _)

section
variable {p : Pixel} {i : PalIndex} {s s1 : State} (hp : ∀ j, j < 64 → chunkAt s j = p)
  (hlookup : lookupOrInsert p s = .ok i s1) (hcap : capFits s.params.tokCap (s.tokLen.toNat + 2) = true)
include hp hlookup hcap

/-- The first scan step of a uniform chunk emits TOK(i, 1, 63), where there is room (R134). -/
theorem scanStep_of_uniform : scanStep (setCursors 0 63 s) = .ok () (uniformScanned i s1) := by
  have hspan := lookupOrInsert_span hlookup
  have htokLen : s1.tokLen = s.tokLen := hspan.tokLen
  obtain ⟨htail, hhead⟩ := firstRun_of_uniform (Nat.zero_le 63) fun j _ hj => hp j (Nat.lt_succ_of_le hj)
  have hbase : lookupOrInsert (chunkAt s 0) (setCursors 0 63 s) = .ok i (setCursors 0 63 s1) := by
    rw [hp 0 (by decide)]
    exact lookupOrInsert_setCursors hlookup 0 63
  have hstep : scanStep (setCursors 0 63 s) =
      emitToken i (headAfter (chunkAt s) 0 63 - 0) (63 - tailAfter (chunkAt s) 0 63)
        (setCursors (headAfter (chunkAt s) 0 63) (tailAfter (chunkAt s) 0 63) s1) :=
    scanStep_of_lookup (s1 := setCursors 0 63 s1) hbase
  have hroom : capFits s1.params.tokCap (s1.tokLen.toNat + (packToken i 1 63).length) = true := by
    rwa [hspan.params, htokLen]
  rw [hstep, hhead, htail]
  exact (if_pos rfl).trans (if_pos hroom)

/-- That step is the whole scan (R134). -/
theorem encodeChunk_of_uniform : encodeChunk s = .ok () (completeChunk (uniformScanned i s1)) := by
  rw [encodeChunk, scanLoop_of_le 63 (Nat.zero_le _), scanStep_of_uniform hp hlookup hcap, OpResult.andThen_ok,
    scanLoop_of_lt 63 (uniformScanned_tail_lt_head i s1), OpResult.andThen_ok]

end

/-- Settles O40: the scan is one step, whose two bytes are all that is appended. -/
theorem uniformChunkIsOneToken : Obligations.UniformChunkIsOneToken := by
  intro p i s s1 hp hlookup hcap hroom
  have hspan := uniformScanned_span hlookup
  have hbyte (n : Nat) (hn : n < 2) : Memory.read (uniformScanned i s1).tokBuf (s.tokLen.toNat + n) =
      [i ++ 0b1#1 ++ 0b0000#4, 0x7F#8][n]? :=
    packToken_one_sixtyThree i ▸ hspan.read_appended hroom hn
  exact ⟨_, encodeChunk_of_uniform hp hlookup hcap, uniformScanned_pal i s1, uniformScanned_palSize i s1,
    hspan.tokLen_toNat hroom, hbyte 0 (by decide), hbyte 1 (by decide)⟩

end Sys2Proof.Machine
end

section
/-! PROOFS. EMIT_TOKEN and the token forms: the bytes of a token (O5), what the operation does (O31), and what the two
instructions make of it (O27, O28, O29, O30); no chunk scan raises LENGTH_ASSERT (O41). -/

namespace Sys2Proof.Machine

/-! ## The bytes of a token (R151, R152) -/

theorem lengthsFit_iff {h t : Nat} : lengthsFit h t = true ↔ 1 ≤ h ∧ h ≤ 63 ∧ t ≤ 63 := decide_eq_true_iff

theorem packToken_short (i : PalIndex) {h t : Nat} (hs : t = 0 ∧ h < 16) :
    packToken i h t = [packShort i (BitVec.ofNat 4 h)] := by
  simp [packToken, usesShortForm, hs]

theorem packToken_long (i : PalIndex) {h t : Nat} (hs : ¬(t = 0 ∧ h < 16)) :
    packToken i h t =
      [highByte (longWord i (BitVec.ofNat 6 h) (BitVec.ofNat 6 t)),
        lowByte (longWord i (BitVec.ofNat 6 h) (BitVec.ofNat 6 t))] := by
  simp [packToken, usesShortForm, hs]

/-- The value of two fields side by side. -/
theorem toNat_append_eq_add {m n : Nat} (x : BitVec m) (y : BitVec n) :
    (x ++ y).toNat = x.toNat * 2 ^ n + y.toNat := by
  rw [BitVec.toNat_append, ← Nat.shiftLeft_add_eq_or_of_lt y.isLt, Nat.shiftLeft_eq]

theorem packShort_toNat (i : PalIndex) (h : BitVec 4) : (packShort i h).toNat = i.toNat * 32 + h.toNat := by
  rw [packShort, toNat_append_eq_add, toNat_append_eq_add]
  change (i.toNat * 2 + 0) * 16 + h.toNat = _
  omega

theorem longWord_toNat (i : PalIndex) (h t : BitVec 6) :
    (longWord i h t).toNat = i.toNat * 8192 + 4096 + h.toNat * 64 + t.toNat := by
  rw [longWord, toNat_append_eq_add, toNat_append_eq_add, toNat_append_eq_add]
  change ((i.toNat * 2 + 1) * 64 + h.toNat) * 64 + t.toNat = _
  omega

/-- A 16-bit word is its two bytes (R55). -/
theorem highByte_lowByte_toNat (w : BitVec 16) : (highByte w).toNat * 256 + (lowByte w).toNat = w.toNat := by
  have hw : (highByte w ++ lowByte w : BitVec 16) = w := BitVec.extractLsb'_append_extractLsb' (w := 8) (len := 8)
  conv_rhs => rw [← hw]
  exact (toNat_append_eq_add (highByte w) (lowByte w)).symm

/-- Settles O5: in either form the fields of a token stand side by side, and the lengths fit theirs. -/
theorem tokenBytesByForm : Obligations.TokenBytesByForm := by
  intro i h t hfit
  obtain ⟨-, hh, ht⟩ := lengthsFit_iff.1 hfit
  refine ⟨fun hs => ⟨_, packToken_short i hs, ?_⟩, fun hs => ⟨_, _, packToken_long i hs, ?_⟩⟩
  · rw [packShort_toNat, BitVec.toNat_ofNat, Nat.mod_eq_of_lt hs.2]
  · rw [highByte_lowByte_toNat, longWord_toNat, BitVec.toNat_ofNat, BitVec.toNat_ofNat, Nat.mod_eq_of_lt (by omega),
      Nat.mod_eq_of_lt (by omega)]

/-! ## EMIT_TOKEN (R150, R153 to R155) -/

theorem capFits_iff {c : TokCap} {n : Nat} : capFits c n = true ↔ ∀ cap, c = .bytes cap → n ≤ cap := by
  cases c <;> simp [capFits]

section
variable (i : PalIndex) {h t : Nat} {s : State}

theorem emitToken_lengthAssert (hfit : ¬(1 ≤ h ∧ h ≤ 63 ∧ t ≤ 63)) :
    emitToken i h t s = .raised .lengthAssert s :=
  if_neg fun hl => hfit (lengthsFit_iff.1 hl)

theorem emitToken_overflow {cap : Nat} (hfit : 1 ≤ h ∧ h ≤ 63 ∧ t ≤ 63) (hcap : s.params.tokCap = .bytes cap)
    (hfull : cap < s.tokLen.toNat + (packToken i h t).length) :
    emitToken i h t s = .raised .outputOverflow s :=
  (if_pos (lengthsFit_iff.2 hfit)).trans
    (if_neg fun hroom => absurd (capFits_iff.1 hroom cap hcap) (Nat.not_le.2 hfull))

theorem emitToken_appends (hfit : 1 ≤ h ∧ h ≤ 63 ∧ t ≤ 63)
    (hroom : ∀ cap, s.params.tokCap = .bytes cap → s.tokLen.toNat + (packToken i h t).length ≤ cap) :
    emitToken i h t s = .ok () (appendBytes (packToken i h t) s) :=
  (if_pos (lengthsFit_iff.2 hfit)).trans (if_pos (capFits_iff.2 hroom))

end

theorem packToken_length_le_two (i : PalIndex) (h t : Nat) : (packToken i h t).length ≤ 2 := by
  rw [packToken_length]
  split <;> omega

/-- Where 32 bits hold the length, appending changes TOKBUF and TOK_LEN only. -/
theorem appendBytes_eq {bs : List Byte} {s : State} (h : s.tokLen.toNat + bs.length < 2 ^ 32) :
    appendBytes bs s = { s with tokBuf := (appendBytes bs s).tokBuf, tokLen := (appendBytes bs s).tokLen } := by
  conv_lhs => rw [appendBytes_frame, (appendBytes_tokLen h).2]

/-- Settles O31: the two checks in their order, then the laws of appending. -/
theorem emitTokenChecksThenAppends : Obligations.EmitTokenChecksThenAppends := by
  intro i h t s
  refine ⟨fun hout => emitToken_lengthAssert i (by omega),
    fun cap h1 h63 t63 hcap hfull => emitToken_overflow i ⟨h1, h63, t63⟩ hcap hfull,
    fun h1 h63 t63 hroom h32 => ?_⟩
  have hlen := packToken_length_le_two i h t
  have hbound : s.tokLen.toNat + (packToken i h t).length < 2 ^ 32 := by omega
  obtain ⟨htokLen, -⟩ := appendBytes_tokLen hbound
  refine ⟨_, emitToken_appends i ⟨h1, h63, t63⟩ hroom, appendBytes_eq hbound, htokLen, fun a => ?_⟩
  rw [htokLen]
  exact appendBytes_read hbound a

/-- Settles O41: of the errors, a scan raises PALETTE_FULL and OUTPUT_OVERFLOW only (`encodeChunk_span`). -/
theorem scanNeverRaisesLengthAssert : Obligations.ScanNeverRaisesLengthAssert := by
  intro s t h
  obtain ⟨_, _, e, -⟩ | ⟨c, _, _, e, hc, -⟩ := encodeChunk_span s
  · cases e.symm.trans h
  · cases e.symm.trans h
    simp at hc

/-! ## The token forms as instructions -/

theorem exec_tokenShort (i : PalIndex) (h : BitVec 4) (s : State) :
    exec (.tokenShort i h) s = .next (endToken (emitToken i h.toNat 0 s)) := rfl

theorem exec_tokenLong (i : PalIndex) (h t : BitVec 6) (s : State) :
    exec (.tokenLong i h t) s = .next (endToken (emitToken i h.toNat t.toNat s)) := rfl

/-- The operands of TOKEN.SHORT, with a nonzero head, are lengths of a token in the short form (R151). -/
theorem tokenShort_operands (i : PalIndex) {h : BitVec 4} (h0 : h ≠ 0#4) :
    (1 ≤ h.toNat ∧ h.toNat ≤ 63 ∧ 0 ≤ 63) ∧ packToken i h.toNat 0 = [packShort i h] := by
  have hpos : h.toNat ≠ 0 := fun e => h0 (BitVec.eq_of_toNat_eq e)
  have hlt := h.isLt
  refine ⟨by omega, ?_⟩
  rw [packToken_short i ⟨rfl, hlt⟩, BitVec.ofNat_toNat, BitVec.setWidth_eq]

/-- The operands of TOKEN.LONG, with a nonzero head, are lengths of a token, which takes the long form where the short
form cannot hold them (R152). -/
theorem tokenLong_operands (i : PalIndex) {h t : BitVec 6} (h0 : h ≠ 0#6) (hlong : t ≠ 0#6 ∨ 16 ≤ h.toNat) :
    (1 ≤ h.toNat ∧ h.toNat ≤ 63 ∧ t.toNat ≤ 63) ∧
      packToken i h.toNat t.toNat = [highByte (longWord i h t), lowByte (longWord i h t)] := by
  have hpos : h.toNat ≠ 0 := fun e => h0 (BitVec.eq_of_toNat_eq e)
  have hform : ¬(t.toNat = 0 ∧ h.toNat < 16) := fun ⟨ht, hh⟩ =>
    hlong.elim (fun hne => hne (BitVec.eq_of_toNat_eq ht)) fun h16 => by omega
  have hh := h.isLt
  have ht := t.isLt
  refine ⟨by omega, ?_⟩
  rw [packToken_long i hform, BitVec.ofNat_toNat, BitVec.ofNat_toNat, BitVec.setWidth_eq, BitVec.setWidth_eq]

/-- TOK_LEN after the append, as the sum of two registers. -/
theorem appendBytes_tokLen_eq {bs : List Byte} {s : State} {n : BitVec 32} (hn : bs.length = n.toNat)
    (h : s.tokLen.toNat + bs.length < 2 ^ 32) : (appendBytes bs s).tokLen = s.tokLen + n := by
  refine BitVec.eq_of_toNat_eq ?_
  rw [(appendBytes_tokLen h).1, BitVec.toNat_add, Nat.mod_eq_of_lt (hn ▸ h), hn]

/-- Settles O27: EMIT_TOKEN appends the one byte of the short form. -/
theorem tokenShortAppendsByte : Obligations.TokenShortAppendsByte := by
  intro i h s h0 hroom hbound
  obtain ⟨hfit, hpack⟩ := tokenShort_operands i h0
  have hemit : emitToken i h.toNat 0 s = .ok () (appendBytes [packShort i h] s) :=
    hpack ▸ emitToken_appends i hfit (by rwa [hpack])
  have hlen : (appendBytes [packShort i h] s).tokLen = s.tokLen + 1 := appendBytes_tokLen_eq rfl hbound
  refine ⟨_, by rw [exec_tokenShort, hemit]; rfl, hlen ▸ appendBytes_eq hbound, ?_, fun a ha => ?_⟩
  · rw [appendBytes_read hbound, if_pos (by simp), Nat.sub_self]
    rfl
  · rw [appendBytes_read hbound, if_neg]
    rintro ⟨hle, hlt⟩
    exact ha (Nat.le_antisymm (Nat.le_of_lt_succ hlt) hle)

/-- Settles O28: EMIT_TOKEN appends the two bytes of the long form. -/
theorem tokenLongAppendsTwoBytes : Obligations.TokenLongAppendsTwoBytes := by
  intro i h t s h0 hlong hroom hbound
  obtain ⟨hfit, hpack⟩ := tokenLong_operands i h0 hlong
  have hemit : emitToken i h.toNat t.toNat s =
      .ok () (appendBytes [highByte (longWord i h t), lowByte (longWord i h t)] s) :=
    hpack ▸ emitToken_appends i hfit (by rwa [hpack])
  have hlen : (appendBytes [highByte (longWord i h t), lowByte (longWord i h t)] s).tokLen = s.tokLen + 2 :=
    appendBytes_tokLen_eq rfl hbound
  refine ⟨_, by rw [exec_tokenLong, hemit]; rfl, hlen ▸ appendBytes_eq hbound, ?_, ?_, fun a ha ha' => ?_⟩
  · rw [appendBytes_read hbound, if_pos (by simp), Nat.sub_self]
    rfl
  · rw [appendBytes_read hbound, if_pos (by simp), Nat.add_sub_cancel_left]
    rfl
  · rw [appendBytes_read hbound, if_neg]
    rintro ⟨hle, hlt⟩
    rw [List.length_cons, List.length_singleton] at hlt
    omega

/-- Settles O29: both are EMIT_TOKEN with the same lengths, which alone select the form. -/
theorem nonCanonicalTokenTakesShortForm : Obligations.NonCanonicalTokenTakesShortForm := by
  intro i h s
  have hhead : (h.setWidth 6).toNat = h.toNat := by
    rw [BitVec.toNat_setWidth]
    exact Nat.mod_eq_of_lt (h.isLt.trans (by decide))
  rw [exec_tokenLong, exec_tokenShort, hhead]
  rfl

/-- Settles O30: each error of EMIT_TOKEN is raised with the state as it was, and takes the error entry. -/
theorem tokenErrorsTakeErrorEntry : Obligations.TokenErrorsTakeErrorEntry := by
  refine ⟨fun i s => ?_, fun i t s => ?_, fun i h s cap h0 hcap hfull => ?_,
    fun i h t s cap h0 hlong hcap hfull => ?_⟩
  · rw [exec_tokenShort, emitToken_lengthAssert i (by simp)]
    rfl
  · rw [exec_tokenLong, emitToken_lengthAssert i (by simp)]
    rfl
  · obtain ⟨hfit, hpack⟩ := tokenShort_operands i h0
    rw [exec_tokenShort, emitToken_overflow i hfit hcap (by rwa [hpack])]
    rfl
  · obtain ⟨hfit, hpack⟩ := tokenLong_operands i h0 hlong
    rw [exec_tokenLong, emitToken_overflow i hfit hcap (by rwa [hpack])]
    rfl

end Sys2Proof.Machine
end

section
/-! PROOFS. The bytes of OUT, region by region (O43). -/

namespace Sys2Proof.Machine

section
variable (s : State)

/-- The header byte (R161). -/
theorem outByte_header : outByte s 0 = some (BitVec.ofNat 8 (realColours s)) := if_pos rfl

/-- Byte `d` of the palette table's entry `k` (R162). -/
theorem outByte_table {k d : Nat} (hk : k < realColours s) (hd : d < 3) :
    outByte s (1 + 3 * k + d) = (palAt s (k + 1)).map fun p => rgbByte p d := by
  have hlt : 1 + 3 * k + d < tokenOffset s := by
    rw [tokenOffset]
    omega
  have hentry : (1 + 3 * k + d - 1) / 3 = k := by omega
  have hcomponent : (1 + 3 * k + d - 1) % 3 = d := by omega
  rw [outByte, if_neg (by omega), if_pos hlt, hentry, hcomponent, tableEntry, if_pos hk]

/-- The token stream (R163). -/
theorem outByte_token {j : Nat} (hj : j < s.tokLen.toNat) :
    outByte s (tokenOffset s + j) = Memory.read s.tokBuf j := by
  have hne : tokenOffset s + j ≠ 0 := by
    rw [tokenOffset]
    omega
  have hlt : tokenOffset s + j < outputLength s := by
    rw [outputLength]
    omega
  rw [outByte, if_neg hne, if_neg (by omega), if_pos hlt, Nat.add_sub_cancel_left]

/-- There is no byte behind the token stream (R164). -/
theorem outByte_beyond {j : Nat} (hj : outputLength s ≤ j) : outByte s j = none := by
  have hoffset : tokenOffset s ≤ outputLength s := Nat.le_add_right _ _
  have hne : j ≠ 0 := by
    rw [tokenOffset] at hoffset
    omega
  rw [outByte, if_neg hne, if_neg (by omega), if_neg (by omega)]

end

/-- Settles O43: one equation for each region of the output. -/
theorem outputLayout : Obligations.OutputLayout := by
  intro s
  refine ⟨outByte_header s, fun k p hk hp => ?_, fun j hj => outByte_token s hj, fun j hj => outByte_beyond s hj⟩
  have hbyte (d : Nat) (hd : d < 3) : outByte s (1 + 3 * k + d) = some (rgbByte p d) := by
    rw [outByte_table s hk hd, hp, Option.map_some]
  exact ⟨hbyte 0 (by decide), hbyte 1 (by decide), hbyte 2 (by decide)⟩

end Sys2Proof.Machine
end

section
/-! PROOFS. The reference decoder fails on malformed streams (O45). -/

namespace Sys2Proof.Machine

/-! ## The header and the palette (R166) -/

theorem refDecode_badPaletteSize (c4 : Nat → Byte) {n : Byte} (hn : 7 < n.toNat) (bs : List Byte) :
    refDecode c4 (n :: bs) = .error .badPaletteSize := by
  rw [refDecode, readHeader, if_pos hn]

/-- A table that ends early is truncated. -/
theorem readTable_truncated (c4 : Nat → Byte) (n k : Nat) {bs : List Byte} (h : bs.length < 3 * n) :
    readTable c4 n k bs = .error .truncated := by
  induction n generalizing k bs with
  | zero => cases h
  | succ n ih =>
    match bs, h with
    | [], _ => rfl
    | [_], _ => rfl
    | [_, _], _ => rfl
    | r :: g :: b :: bs, h =>
      simp only [List.length_cons] at h
      simp only [readTable, ih (k + 1) (bs := bs) (by omega)]

theorem refDecode_truncatedPalette (c4 : Nat → Byte) {n : Byte} (hn : n.toNat ≤ 7) {bs : List Byte}
    (h : bs.length < 3 * n.toNat) : refDecode c4 (n :: bs) = .error .truncated := by
  rw [refDecode, readHeader, if_neg (Nat.not_lt.2 hn), readTable_truncated c4 _ 1 h]

/-- Behind a whole header and palette, what is decoded is the chunks. -/
theorem refDecode_whole_palette (c4 : Nat → Byte) {n : Byte} (hn : n.toNat ≤ 7) {table : List Byte}
    (h : table.length = 3 * n.toNat) :
    ∃ pal : StreamPalette, pal.size = n.toNat ∧
      ∀ stream, refDecode c4 (n :: table ++ stream) = decodeChunks pal stream.length stream := by
  obtain ⟨ps, hps⟩ := readTable_whole c4 n.toNat 1 h
  refine ⟨⟨n.toNat, Config.sentinel :: ps⟩, rfl, fun stream => ?_⟩
  rw [refDecode, List.cons_append, readHeader, if_neg (Nat.not_lt.2 hn), hps]

/-! ## One chunk (R167, R168) -/

section
variable {pal : StreamPalette} {m w i h t : Nat} {bs rest : List Byte}

/-- What a window that has positions left needs first is a token. -/
theorem decodeWindow_readToken_error {e : StreamError} (hr : readToken bs = .error e) :
    decodeWindow pal (m + 1) (w + 1) bs = .error e := by
  rw [decodeWindow, hr]

theorem decodeWindow_zeroHead (hr : readToken bs = .ok ((i, h, t), rest)) (h0 : h = 0) :
    decodeWindow pal (m + 1) (w + 1) bs = .error .zeroHead := by
  simp only [decodeWindow, hr, h0, if_true]

theorem decodeWindow_badIndex (hr : readToken bs = .ok ((i, h, t), rest)) (h0 : h ≠ 0) (hi : pal.size < i) :
    decodeWindow pal (m + 1) (w + 1) bs = .error .badIndex := by
  simp only [decodeWindow, hr, h0, hi, if_true, if_false]

theorem decodeWindow_overrun (hr : readToken bs = .ok ((i, h, t), rest)) (h0 : h ≠ 0) (hi : i ≤ pal.size)
    (hw : w + 1 < h + t) : decodeWindow pal (m + 1) (w + 1) bs = .error .overrun := by
  simp only [decodeWindow, hr, h0, Nat.not_lt.2 hi, hw, if_true, if_false]

end

/-- A long token without its second byte is truncated (R166). -/
theorem readToken_long_truncated {b0 : Byte} (hf : b0.getLsbD 4 = true) : readToken [b0] = .error .truncated :=
  if_pos hf

theorem ne_nil_of_readToken {bs rest : List Byte} {x : Nat × Nat × Nat} (h : readToken bs = .ok (x, rest)) :
    bs ≠ [] := by
  rintro rfl
  cases h

/-- A failure with `left` positions of a chunk open, after whole chunks and the tokens that left them open, is a failure
of the stream. -/
theorem decodeChunks_partial_chunk_error {pal : StreamPalette} {chunks part bad : List Byte} {px : List Pixel}
    {left : Nat} (hchunks : decodeChunks pal chunks.length chunks = .ok px) (hpart : TakesTokens pal.size 64 part left)
    (hleft : 1 ≤ left) (hne : part ++ bad ≠ []) {e : StreamError}
    (hbad : ∀ m w, left = w + 1 → decodeWindow pal (m + 1) (w + 1) bad = .error e) :
    decodeChunks pal (chunks ++ (part ++ bad)).length (chunks ++ (part ++ bad)) = .error e := by
  refine decodeChunks_append_error hchunks hne (decodeWindow_takesTokens_error hpart le_rfl fun m hm => ?_) ?_
  · obtain ⟨w, rfl⟩ : ∃ w, left = w + 1 := ⟨left - 1, by omega⟩
    obtain ⟨m, rfl⟩ : ∃ k, m = k + 1 := ⟨m - 1, by omega⟩
    exact hbad m w rfl
  · rw [List.length_append]
    exact Nat.lt_add_of_pos_right (List.length_pos_iff.2 hne)

/-- Settles O45: the header and the palette by the decoder's own tests; every failure inside a chunk through the whole
chunks and tokens before it. -/
theorem decoderFailsOnMalformedStreams : Obligations.DecoderFailsOnMalformedStreams := by
  refine ⟨fun _ => rfl, fun c4 n bs hn => refDecode_badPaletteSize c4 hn bs,
    fun c4 n bs hn hlen => refDecode_truncatedPalette c4 hn hlen, fun c4 n table chunks part px left htable hok
      hpart hleft => ?_⟩
  have hn : n.toNat ≤ 7 := by
    by_contra hgt
    cases hok.symm.trans (refDecode_badPaletteSize c4 (not_le.1 hgt) (table ++ chunks))
  obtain ⟨pal, hsize, hdecode⟩ := refDecode_whole_palette c4 hn htable
  rw [hdecode] at hok
  rw [← hsize] at hpart ⊢
  have hfail {bad : List Byte} {e : StreamError} (hne : part ++ bad ≠ [])
      (hbad : ∀ m w, left = w + 1 → decodeWindow pal (m + 1) (w + 1) bad = .error e) :
      refDecode c4 (n :: table ++ chunks ++ part ++ bad) = .error e := by
    rw [List.append_assoc, List.append_assoc, hdecode]
    exact decodeChunks_partial_chunk_error hok hpart hleft hne hbad
  refine ⟨fun hne => ?_, fun b0 hf => ?_, fun i h t bad rest hr => ⟨fun h0 => ?_, fun h0 hi => ?_, fun h0 hi hw => ?_⟩⟩
  · rw [← List.append_nil part] at hne
    have hend := hfail hne fun m w _ => decodeWindow_readToken_error rfl
    rwa [List.append_nil] at hend
  · exact hfail (by simp) fun m w _ => decodeWindow_readToken_error (readToken_long_truncated hf)
  all_goals refine hfail (List.append_ne_nil_of_right_ne_nil part (ne_nil_of_readToken hr)) fun m w hw' => ?_
  · exact decodeWindow_zeroHead hr h0
  · exact decodeWindow_badIndex hr h0 hi
  · exact decodeWindow_overrun hr h0 hi (hw' ▸ hw)

end Sys2Proof.Machine
end

section
/-! PROOFS. What the reference decoder makes of an encoder's output: its palette, the runs of a chunk, whole chunks
(R166, R167). -/

namespace Sys2Proof.Machine

/-! ## The components of a pixel word (R70) -/

section
variable (c1 c2 c3 c4 : Byte)

theorem red_pixelWord : red (pixelWord c1 c2 c3 c4) = c1 := by
  unfold red pixelWord
  rw [BitVec.extractLsb'_append_eq_of_le (by decide), BitVec.extractLsb'_append_eq_of_le (by decide)]
  exact BitVec.extractLsb'_append_eq_left

theorem green_pixelWord : green (pixelWord c1 c2 c3 c4) = c2 := by
  unfold green pixelWord
  rw [BitVec.extractLsb'_append_eq_of_le (by decide), BitVec.extractLsb'_append_eq_of_le (by decide)]
  exact BitVec.extractLsb'_append_eq_right

theorem blue_pixelWord : blue (pixelWord c1 c2 c3 c4) = c3 := by
  unfold blue pixelWord
  rw [BitVec.extractLsb'_append_eq_of_le (by decide)]
  exact BitVec.extractLsb'_append_eq_right

theorem component4_pixelWord : component4 (pixelWord c1 c2 c3 c4) = c4 := BitVec.extractLsb'_append_eq_right

end

/-! ## The palette table -/

/-- The palette table of these colours: R, G, B of each (R162). -/
def tableBytes (colours : List Pixel) : List Byte := colours.flatMap fun p => [red p, green p, blue p]

/-- What the decoder reads from the table of these colours, the first of which has index `k` (R166). -/
def tableColours (c4 : Nat → Byte) (k : Nat) (colours : List Pixel) : List Pixel :=
  colours.mapIdx fun j p => pixelWord (red p) (green p) (blue p) (c4 (k + j))

/-- The palette that the decoder reads from an output of these colours. -/
def decodedPalette (c4 : Nat → Byte) (colours : List Pixel) : StreamPalette :=
  ⟨colours.length, Config.sentinel :: tableColours c4 1 colours⟩

theorem tableBytes_cons (p : Pixel) (ps : List Pixel) :
    tableBytes (p :: ps) = red p :: green p :: blue p :: tableBytes ps := rfl

theorem tableBytes_length (colours : List Pixel) : (tableBytes colours).length = 3 * colours.length := by
  induction colours with
  | nil => rfl
  | cons p ps ih =>
    simp only [tableBytes_cons, List.length_cons, ih]
    omega

/-- Byte `d` of the table's entry `k`. -/
theorem tableBytes_getElem? (colours : List Pixel) (k : Nat) {d : Nat} (hd : d < 3) :
    (tableBytes colours)[3 * k + d]? = colours[k]?.map fun p => rgbByte p d := by
  induction colours generalizing k with
  | nil => rfl
  | cons p ps ih =>
    cases k with
    | zero =>
      obtain rfl | rfl | rfl : d = 0 ∨ d = 1 ∨ d = 2 := by omega
      all_goals rfl
    | succ k =>
      have hnext : 3 * (k + 1) + d = 3 * k + d + 1 + 1 + 1 := by omega
      rw [tableBytes_cons, hnext, List.getElem?_cons_succ, List.getElem?_cons_succ, List.getElem?_cons_succ, ih,
        List.getElem?_cons_succ]

theorem tableColours_cons (c4 : Nat → Byte) (k : Nat) (p : Pixel) (ps : List Pixel) :
    tableColours c4 k (p :: ps) = pixelWord (red p) (green p) (blue p) (c4 k) :: tableColours c4 (k + 1) ps := by
  simp only [tableColours, List.mapIdx_cons, Nat.add_zero, Nat.add_assoc, Nat.add_comm 1]

theorem readTable_tableBytes (c4 : Nat → Byte) (k : Nat) (colours : List Pixel) (rest : List Byte) :
    readTable c4 colours.length k (tableBytes colours ++ rest) = .ok (tableColours c4 k colours, rest) := by
  induction colours generalizing k with
  | nil => rfl
  | cons p ps ih =>
    rw [tableBytes_cons, tableColours_cons]
    simp only [List.length_cons, List.cons_append, readTable, ih]

/-- The header and the palette table of an output are read back (R166). -/
theorem readHeader_output (c4 : Nat → Byte) {colours : List Pixel} (h7 : colours.length ≤ 7) (rest : List Byte) :
    readHeader c4 (BitVec.ofNat 8 colours.length :: tableBytes colours ++ rest) =
      .ok (decodedPalette c4 colours, rest) := by
  have hsize : (BitVec.ofNat 8 colours.length).toNat = colours.length := by
    rw [BitVec.toNat_ofNat]
    exact Nat.mod_eq_of_lt (by omega)
  rw [List.cons_append, readHeader, hsize, if_neg (by omega), readTable_tableBytes]
  rfl

/-! ## The runs of a chunk -/

/-- The run with another pixel in place of its baseline. -/
def Run.recolour (f : Pixel → Pixel) (r : Run) : Run := { r with baseline := f r.baseline }

theorem runPixels_recolour (f : Pixel → Pixel) (rs : List Run) :
    runPixels (rs.map (Run.recolour f)) = (runPixels rs).map f := by
  induction rs with
  | nil => rfl
  | cons r rs ih => simp only [List.map_cons, runPixels, ih, Run.recolour, List.map_append, List.map_replicate]

/-- A run that takes a pixel shows its baseline. -/
theorem baseline_mem_runPixels {rs : List Run} {r : Run} (hr : r ∈ rs) (hhead : 1 ≤ r.headLength) :
    r.baseline ∈ runPixels rs := by
  induction rs with
  | nil => cases hr
  | cons r' rs ih =>
    simp only [runPixels, List.mem_append]
    rcases List.mem_cons.1 hr with rfl | hr
    · exact .inl (.inl (List.mem_replicate.2 ⟨by omega, rfl⟩))
    · exact .inl (.inr (ih hr))

/-- The pixel that the decoder puts where the encoder, with the registry of `s`, has emitted the index of `p`. -/
def decodedPixel (pal : StreamPalette) (s : State) (p : Pixel) : Pixel :=
  (pal.colours[(findEntry p s).getD 0]?).getD Config.sentinel

/-- The registry of `s` has an index for the pixel, and the palette a colour for the index. -/
def Indexed (pal : StreamPalette) (s : State) (p : Pixel) : Prop := ∃ k, findEntry p s = some k ∧ k ≤ pal.size

/-- The token of a run is read back as the run (R78, R126). -/
theorem readToken_runBytes {s : State} {r : Run} {k : Nat} (hk : findEntry r.baseline s = some k) (h7 : k ≤ 7)
    (hfit : lengthsFit r.headLength r.tailLength = true) (rest : List Byte) :
    readToken (runBytes s r ++ rest) = .ok ((k, r.headLength, r.tailLength), rest) := by
  have hindex : (BitVec.ofNat 3 k).toNat = k := by
    rw [BitVec.toNat_ofNat]
    exact Nat.mod_eq_of_lt (by omega)
  rw [runBytes, hk, Option.getD_some, tokenReadsBack _ _ _ _ hfit, hindex]

/-- The tokens of runs that fill a window decode to the runs put back in place (R167). -/
theorem decodeWindow_runs {pal : StreamPalette} {s : State} (h7 : pal.size ≤ 7) {rs : List Run}
    (hfit : ∀ r ∈ rs, lengthsFit r.headLength r.tailLength = true) (hindex : ∀ r ∈ rs, Indexed pal s r.baseline)
    {m : Nat} (hm : (rs.map Run.consumed).sum ≤ m) (rest : List Byte) :
    decodeWindow pal m (rs.map Run.consumed).sum (rs.flatMap (runBytes s) ++ rest) =
      .ok ((runPixels rs).map (decodedPixel pal s), rest) := by
  rw [← runPixels_recolour]
  induction rs generalizing m with
  | nil => cases m <;> rfl
  | cons r rs ih =>
    have hr := hfit r List.mem_cons_self
    obtain ⟨hhead, -, -⟩ := lengthsFit_iff.1 hr
    obtain ⟨k, hk, hsize⟩ := hindex r List.mem_cons_self
    rw [List.map_cons, List.sum_cons, Run.consumed] at hm ⊢
    obtain ⟨w, hw⟩ : ∃ w, r.headLength + r.tailLength + (rs.map Run.consumed).sum = w + 1 :=
      ⟨r.headLength + r.tailLength + (rs.map Run.consumed).sum - 1, by omega⟩
    obtain ⟨m, rfl⟩ : ∃ n, m = n + 1 := ⟨m - 1, by omega⟩
    have hleft : w + 1 - (r.headLength + r.tailLength) = (rs.map Run.consumed).sum := by omega
    rw [hw, List.flatMap_cons, List.append_assoc,
      decodeWindow_token (readToken_runBytes hk (hsize.trans h7) hr _) (by omega) hsize (by omega), hleft,
      ih (fun r' hr' => hfit r' (List.mem_cons_of_mem r hr')) (fun r' hr' => hindex r' (List.mem_cons_of_mem r hr'))
        (by omega)]
    simp only [List.map_cons, runPixels, Run.recolour, decodedPixel, hk, Option.getD_some]

/-! ## Whole chunks -/

/-- The pixels of a chunk, in stream order. -/
def chunkPixels (chunk : Nat → Pixel) : List Pixel := (List.range 64).map chunk

/-- The bytes of a chunk's tokens, the indices read from the registry of `s` (R120). -/
def chunkBytes (s : State) (chunk : Nat → Pixel) : List Byte := (chunkRuns chunk).flatMap (runBytes s)

theorem chunkBytes_length (s : State) (chunk : Nat → Pixel) :
    2 ≤ (chunkBytes s chunk).length ∧ (chunkBytes s chunk).length ≤ 64 :=
  chunkRuns_bytes chunk fun p => BitVec.ofNat 3 ((findEntry p s).getD 0)

theorem baseline_mem_chunkPixels {chunk : Nat → Pixel} {r : Run} (hr : r ∈ chunkRuns chunk) :
    r.baseline ∈ chunkPixels chunk := by
  rw [chunkPixels, ← runPixels_chunkRuns]
  exact baseline_mem_runPixels hr (chunkRuns_lengths chunk hr).1

section
variable {pal : StreamPalette} {s : State} (h7 : pal.size ≤ 7)
include h7

/-- The bytes of a chunk decode to its pixels, and to nothing of what follows (R127, R167). -/
theorem decodeWindow_chunkBytes {chunk : Nat → Pixel} (hindex : ∀ p ∈ chunkPixels chunk, Indexed pal s p)
    (rest : List Byte) :
    decodeWindow pal Config.chunk Config.chunk (chunkBytes s chunk ++ rest) =
      .ok ((chunkPixels chunk).map (decodedPixel pal s), rest) := by
  have hruns := decodeWindow_runs (rs := chunkRuns chunk) (m := Config.chunk) h7
    (fun r hr => lengthsFit_of_mem_windowRuns chunk Config.chunk le_rfl hr)
    (fun r hr => hindex r.baseline (baseline_mem_chunkPixels hr)) (consumed_chunkRuns chunk).le rest
  rwa [consumed_chunkRuns, runPixels_chunkRuns] at hruns

/-- The bytes of whole chunks decode to their pixels (R166). -/
theorem decodeChunks_chunkBytes {chunks : List (Nat → Pixel)}
    (hindex : ∀ p ∈ chunks.flatMap chunkPixels, Indexed pal s p) {n : Nat} (hn : chunks.length ≤ n) :
    decodeChunks pal n (chunks.flatMap (chunkBytes s)) =
      .ok ((chunks.flatMap chunkPixels).map (decodedPixel pal s)) := by
  induction chunks generalizing n with
  | nil => cases n <;> rfl
  | cons c cs ih =>
    obtain ⟨n, rfl⟩ : ∃ k, n = k + 1 := ⟨n - 1, by rw [List.length_cons] at hn; omega⟩
    simp only [List.flatMap_cons, List.mem_append] at hindex ⊢
    have hchunk := decodeWindow_chunkBytes h7 (fun p hp => hindex p (.inl hp)) (cs.flatMap (chunkBytes s))
    have hrest := ih (fun p hp => hindex p (.inr hp)) (Nat.le_of_succ_le_succ hn)
    cases hbytes : chunkBytes s c with
    | nil =>
      have hlen := (chunkBytes_length s c).1
      rw [hbytes] at hlen
      cases hlen
    | cons b bs =>
      rw [hbytes, List.cons_append] at hchunk
      rw [List.cons_append, decodeChunks, hchunk]
      simp only [hrest, List.map_append]

end

end Sys2Proof.Machine
end

section
/-! PROOFS. The round trip (O58): an encode operation records the tokens of every chunk it scans, and the reference
decoder takes its output back to the pixels scanned (R169). -/

namespace Sys2Proof.Machine

/-! ## The tokens of the chunks scanned so far -/

/-- TOKBUF holds the tokens of these chunks and nothing else, and the registry every pixel of theirs. -/
structure Emitted (chunks : List (Nat → Pixel)) (s : State) : Prop where
  tokLen : s.tokLen.toNat = (chunks.flatMap (chunkBytes s)).length
  read : ∀ n, n < s.tokLen.toNat → Memory.read s.tokBuf n = (chunks.flatMap (chunkBytes s))[n]?
  found : ∀ p ∈ chunks.flatMap chunkPixels, (findEntry p s).isSome = true

theorem emitted_nil {s : State} (h : s.tokLen = 0) : Emitted [] s where
  tokLen := by rw [h]; rfl
  read := fun n hn => by
    rw [h] at hn
    exact absurd hn (Nat.not_lt_zero n)
  found := nofun

theorem chunkBytes_congr {s t : State} {chunk : Nat → Pixel}
    (h : ∀ p ∈ chunkPixels chunk, findEntry p t = findEntry p s) : chunkBytes t chunk = chunkBytes s chunk :=
  List.flatMap_congr fun r hr => by rw [runBytes, runBytes, h _ (baseline_mem_chunkPixels hr)]

theorem flatMap_chunkBytes_congr {s t : State} {chunks : List (Nat → Pixel)}
    (h : ∀ p ∈ chunks.flatMap chunkPixels, findEntry p t = findEntry p s) :
    chunks.flatMap (chunkBytes t) = chunks.flatMap (chunkBytes s) :=
  List.flatMap_congr fun c hc => chunkBytes_congr fun p hp => h p (List.mem_flatMap.2 ⟨c, hc, hp⟩)

theorem Emitted.congr {chunks : List (Nat → Pixel)} {s t : State} (h : Emitted chunks s) (hpal : t.pal = s.pal)
    (hsize : t.palSize = s.palSize) (hbuf : t.tokBuf = s.tokBuf) (hlen : t.tokLen = s.tokLen) : Emitted chunks t := by
  have hfind := findEntry_congr hpal hsize
  have hbytes := flatMap_chunkBytes_congr (chunks := chunks) fun p _ => hfind p
  exact
    { tokLen := by rw [hlen, hbytes, h.tokLen]
      read := fun n hn => by
        rw [hlen] at hn
        rw [hbuf, hbytes, h.read n hn]
      found := fun p hp => by rw [hfind]; exact h.found p hp }

/-- Chunks take no more bytes than they have pixels (R130). -/
theorem flatMap_chunkBytes_length_le (s : State) (chunks : List (Nat → Pixel)) :
    (chunks.flatMap (chunkBytes s)).length ≤ (chunks.flatMap chunkPixels).length := by
  rw [List.length_flatMap, List.length_flatMap]
  exact List.sum_le_sum fun c _ => (chunkBytes_length s c).2.trans_eq (by simp [chunkPixels])

/-- Chunks take at least a byte each (R130). -/
theorem length_le_flatMap_chunkBytes (s : State) (chunks : List (Nat → Pixel)) :
    chunks.length ≤ (chunks.flatMap (chunkBytes s)).length := by
  induction chunks with
  | nil => exact Nat.zero_le _
  | cons c cs ih =>
    have hc := (chunkBytes_length s c).1
    rw [List.flatMap_cons, List.length_append, List.length_cons]
    omega

/-- A found entry stays found at its index in a scan (R103, R120). -/
theorem ScanFrame.findEntry {s t : State} (h : ScanFrame s t) {p : Pixel} {k : Nat} (hk : findEntry p s = some k) :
    findEntry p t = some k := by
  obtain ⟨hlt, hp, hlowest⟩ := findEntry_eq_some.1 hk
  refine findEntry_eq_some.2 ⟨hlt.trans_le h.palSize, ?_, fun j hj => ?_⟩
  · rw [h.pal k (.inl hlt), hp]
  · rw [h.pal j (.inl (hj.trans hlt))]
    exact hlowest j hj

/-- A scan that completes adds its chunk's tokens (R153), where the registry it leaves knows the chunk's pixels. -/
theorem Emitted.encodeChunk {chunks : List (Nat → Pixel)} {s t : State} (h : Emitted chunks s)
    (hsize : 1 ≤ s.palSize.toNat ∧ s.palSize.toNat ≤ 8) (hroom : s.tokLen.toNat + 64 < 2 ^ 32)
    (hscan : encodeChunk s = .ok () t) (hfound : ∀ p ∈ chunkPixels (chunkAt s), (findEntry p t).isSome = true) :
    Emitted (chunks ++ [chunkAt s]) t := by
  obtain ⟨hlen, hread, -, -, frame⟩ := scanEmitsTheChunksTokens s t hsize.1 hsize.2 hroom hscan
  change t.tokLen.toNat = s.tokLen.toNat + (chunkBytes t (chunkAt s)).length at hlen
  change ∀ n, n < (chunkBytes t (chunkAt s)).length → _ = (chunkBytes t (chunkAt s))[n]? at hread
  have hkept : ∀ p ∈ chunks.flatMap chunkPixels, findEntry p t = findEntry p s := fun p hp => by
    obtain ⟨k, hk⟩ := Option.isSome_iff_exists.1 (h.found p hp)
    rw [hk, frame.findEntry hk]
  have hbytes : (chunks ++ [chunkAt s]).flatMap (chunkBytes t) =
      chunks.flatMap (chunkBytes s) ++ chunkBytes t (chunkAt s) := by
    rw [List.flatMap_append, List.flatMap_singleton, flatMap_chunkBytes_congr hkept]
  exact
    { tokLen := by rw [hlen, hbytes, List.length_append, h.tokLen]
      read := fun n hn => by
        have hstart := h.tokLen
        rw [hbytes]
        by_cases hold : n < s.tokLen.toNat
        · rw [frame.tokBuf n (.inl hold), h.read n hold, List.getElem?_append_left (h.tokLen ▸ hold)]
        · obtain ⟨m, rfl⟩ := Nat.exists_eq_add_of_le (not_lt.1 hold)
          rw [hread m (by omega), List.getElem?_append_right (by omega), h.tokLen, Nat.add_sub_cancel_left]
      found := fun p hp => by
        rw [List.flatMap_append, List.flatMap_singleton, List.mem_append] at hp
        rcases hp with hp | hp
        · rw [hkept p hp]
          exact h.found p hp
        · exact hfound p hp }

/-! ## The tokens in the course of an operation -/

/-- Every pixel of a list is among the sentinel and the colours first seen in it. -/
theorem known_firstSeen {ps : List Pixel} {p : Pixel} (hp : p ∈ ps) : Known (firstSeen ps) p := by
  obtain ⟨before, behind, rfl⟩ := List.append_of_mem hp
  rw [firstSeen_eq_addColours, addColours_append, addColours_cons]
  exact (known_addColour _ p).addColours behind

theorem Registers.findEntry_isSome {cs : List Pixel} {s : State} (h : Registers cs s) {p : Pixel} (hp : Known cs p) :
    (findEntry p s).isSome = true := by
  rw [Option.isSome_iff_ne_none]
  exact fun hnone => h.findEntry_eq_none.1 hnone hp

/-- The chunks scanned so far and the pending pixels are `pixels`, and the token buffer holds the chunks' tokens. -/
def Records (pixels : List Pixel) (s : State) : Prop :=
  ∃ chunks, Emitted chunks s ∧ pixels = chunks.flatMap chunkPixels ++ pendingPixels s

theorem Records.congr {ps : List Pixel} {s t : State} (h : Records ps s) (hpal : t.pal = s.pal)
    (hsize : t.palSize = s.palSize) (hbuf : t.tokBuf = s.tokBuf) (hlen : t.tokLen = s.tokLen) (hfill : t.fill = s.fill)
    (hchunk : t.chunkBuf = s.chunkBuf) : Records ps t := by
  obtain ⟨chunks, hemit, rfl⟩ := h
  exact ⟨chunks, hemit.congr hpal hsize hbuf hlen, by rw [pendingPixels_congr hfill hchunk]⟩

theorem Records.storePixel {ps : List Pixel} {s : State} (h : Records ps s) (p : Pixel) (hroom : s.fill.toNat < 64) :
    Records (ps ++ [p]) (storePixel p s) := by
  obtain ⟨chunks, hemit, rfl⟩ := h
  exact ⟨chunks, hemit.congr rfl rfl rfl rfl, by rw [pendingPixels_storePixel p hroom, List.append_assoc]⟩

theorem Records.padChunk {ps : List Pixel} {s : State} (h : Records ps s) (hroom : s.fill.toNat < 64) :
    Records (ps ++ List.replicate (64 - s.fill.toNat) Config.sentinel) (padChunk s) := by
  obtain ⟨chunks, hemit, rfl⟩ := h
  exact ⟨chunks, hemit.congr rfl rfl rfl rfl, by rw [pendingPixels_padChunk hroom, List.append_assoc]⟩

/-- The scan of a full chunk turns its pending pixels into tokens. (`qs` are the pixels with the padding, `ps` those
whose colours the registry accounts for.) -/
theorem Records.encodeChunk {ps qs : List Pixel} {s u : State} (h : Records qs s) (haccounts : Accounts ps s)
    (hknown : ∀ p ∈ qs, Known (firstSeen ps) p) (hbound : qs.length < 2 ^ 32) (hfull : s.fill = 64#7)
    (hscan : encodeChunk s = .ok () u) : Registers (firstSeen ps) u ∧ u.fill = 0 ∧ Records qs u := by
  obtain ⟨chunks, hemit, rfl⟩ := h
  have hpending : pendingPixels s = chunkPixels (chunkAt s) := pendingPixels_of_full hfull
  have hreg : Registers (firstSeen ps) u := by
    have hcollects := haccounts.encodeChunk hfull
    rwa [hscan] at hcollects
  have hempty : u.fill = 0 := by
    obtain ⟨v, -, rfl⟩ := encodeChunk_eq_ok hscan
    rfl
  have hsize : 1 ≤ s.palSize.toNat ∧ s.palSize.toNat ≤ 8 := by
    obtain ⟨cs, hcs, -⟩ := haccounts
    have hlen := hcs.size
    have h7 := hcs.room
    omega
  have hroom : s.tokLen.toNat + 64 < 2 ^ 32 := by
    have hbytes := flatMap_chunkBytes_length_le s chunks
    rw [List.length_append, hpending, chunkPixels, List.length_map, List.length_range] at hbound
    rw [hemit.tokLen]
    omega
  refine ⟨hreg, hempty, chunks ++ [chunkAt s], hemit.encodeChunk hsize hroom hscan fun p hp => ?_, ?_⟩
  · exact hreg.findEntry_isSome (hknown p (List.mem_append_right _ (hpending ▸ hp)))
  · rw [pendingPixels_of_empty hempty, List.append_nil, List.flatMap_append, List.flatMap_singleton, hpending]

/-- Whole chunks have been scanned, so that FILL counts the pixels behind the last of them. -/
theorem Records.length_mod {ps : List Pixel} {s : State} (h : Records ps s) (hroom : s.fill.toNat < 64) :
    ps.length % 64 = s.fill.toNat := by
  obtain ⟨chunks, -, rfl⟩ := h
  have hchunks : (chunks.flatMap chunkPixels).length = chunks.length * 64 := by
    simp [List.length_flatMap, chunkPixels]
  rw [List.length_append, hchunks, pendingPixels, List.length_map, List.length_range]
  omega

/-- The operation has taken `pixels` and, where 32 bits hold its lengths, holds their tokens; or it has failed. -/
def Recording (pixels : List Pixel) (s : State) : Prop :=
  (Accepting pixels s ∧ (pixels.length + 128 ≤ 2 ^ 32 → Records pixels s)) ∨ Failed pixels s

theorem Recording.takeIssue {ps : List Pixel} {s : State} (h : Recording ps s) (f : Fetched) (rest : List PortEvent) :
    Recording ps (takeIssue f rest s) :=
  h.imp
    (fun ⟨haccepting, hrecords⟩ => ⟨haccepting.takeIssue f rest, fun hbound =>
      (hrecords hbound).congr (takeIssue_pal ..) (takeIssue_palSize ..) (takeIssue_tokBuf ..) (takeIssue_tokLen ..)
        (takeIssue_fill ..) (takeIssue_chunkBuf ..)⟩)
    fun hfailed => hfailed.takeIssue f rest

theorem recording_start (s : State) : Recording [] (answerStatus (openOperation s)) :=
  .inl ⟨accepting_start s, fun _ => ⟨[], emitted_nil rfl, (pendingPixels_of_empty rfl).symm⟩⟩

/-- A pixel that the operation takes is recorded, pending or in its chunk's tokens (R185). -/
theorem Records.pushPixel {ps : List Pixel} {s t : State} {p : Pixel} (h : Records ps s) (hs : Accepting ps s)
    (ht : t.state = .accepting) (hbound : (ps ++ [p]).length < 2 ^ 32) (e : exec (.pushPixel p) s = .next t) :
    Records (ps ++ [p]) t := by
  have hstored := h.storePixel p hs.fill
  obtain ⟨hne, -⟩ | ⟨-, -, e'⟩ | ⟨-, -, e'⟩ := execPushPixel_cases p s
  · exact absurd hs.state hne
  · cases e'.symm.trans e
  · cases e'.symm.trans e
    by_cases hfull : (Machine.storePixel p s).fill = 64#7
    · rw [scanIfFull, if_pos hfull] at ht ⊢
      cases hscan : Machine.encodeChunk (Machine.storePixel p s) with
      | raised c u =>
        rw [hscan] at ht
        cases ht
      | ok _ u =>
        obtain ⟨-, -, hrecords⟩ := hstored.encodeChunk (hs.colours.storePixel p hs.fill) (fun _ => known_firstSeen)
          hbound hfull hscan
        exact hrecords.congr rfl rfl rfl rfl rfl rfl
    · rw [scanIfFull, if_neg hfull]
      exact hstored.congr rfl rfl rfl rfl rfl rfl

theorem Recording.pushPixel {ps : List Pixel} {s : State} (h : Recording ps s) (p : Pixel) :
    ∃ t, exec (.pushPixel p) s = .next t ∧ Recording (ps ++ [p]) t := by
  rcases h with ⟨hs, hrecords⟩ | hfailed
  · obtain ⟨t, e, ht | ht⟩ := hs.pushPixel p
    · refine ⟨t, e, .inl ⟨ht, fun hbound => ?_⟩⟩
      have hbefore : ps.length + 128 ≤ 2 ^ 32 := by
        rw [List.length_append] at hbound
        omega
      exact (hrecords hbefore).pushPixel hs ht.state (by omega) e
    · exact ⟨t, e, .inr ht⟩
  · obtain ⟨t, e, ht⟩ := hfailed.pushPixel p
    exact ⟨t, e, .inr ht⟩

/-! ## The end of the operation -/

/-- The operation has ended with these chunks' tokens as its token stream, and with its whole output readable. -/
structure Streamed (chunks : List (Nat → Pixel)) (s : State) : Prop where
  emitted : Emitted chunks s
  outLen : s.outLen.toNat = outputLength s

/-- The end of an operation that has no partial chunk left (R186). -/
theorem Records.finishOperation {cs qs : List Pixel} {s : State} (h : Records qs s) (hreg : Registers cs s)
    (hfill : s.fill = 0) (hbound : qs.length + 64 < 2 ^ 32) :
    ∃ chunks, qs = chunks.flatMap chunkPixels ∧ Streamed chunks (answerStatus (finishOperation s)) := by
  obtain ⟨chunks, hemit, rfl⟩ := h
  rw [pendingPixels_of_empty hfill, List.append_nil] at hbound ⊢
  refine ⟨chunks, rfl, hemit.congr rfl rfl rfl rfl, lengthValue_toNat s ?_⟩
  have hbytes := flatMap_chunkBytes_length_le s chunks
  have h7 := hreg.room
  rw [outputLength, tokenOffset, realColours, hreg.size, hemit.tokLen]
  omega

/-- An operation that ends in DONE has scanned its pixels with the padding (R169, R186). -/
theorem Records.endInput {ps : List Pixel} {s t : State} (h : Records ps s) (hs : Accepting ps s)
    (hbound : ps.length + 128 ≤ 2 ^ 32) (e : exec .endInput s = .next t) (hdone : t.state = .done) :
    ∃ chunks, scannedPixels ps = chunks.flatMap chunkPixels ∧ Streamed chunks t := by
  have hmod : ps.length % Config.chunk = s.fill.toNat := h.length_mod hs.fill
  obtain ⟨hne, -⟩ | ⟨-, h0, e'⟩ | ⟨-, -, -, e'⟩ | ⟨-, h0, -, e'⟩ := execEndInput_cases s
  · exact absurd hs.state hne
  · cases e'.symm.trans e
    have hscanned : scannedPixels ps = ps := by
      rw [scannedPixels, hmod, h0]
      exact List.append_nil ps
    rw [hscanned]
    exact h.finishOperation (hs.colours.registers h0) h0 (by omega)
  · cases e'.symm.trans e
    cases hdone
  · cases e'.symm.trans e
    have hpos : s.fill.toNat ≠ 0 := fun h' => h0 (BitVec.eq_of_toNat_eq h')
    have hscanned : scannedPixels ps = ps ++ List.replicate (64 - s.fill.toNat) Config.sentinel := by
      rw [scannedPixels, hmod, Nat.mod_eq_of_lt (by change 64 - s.fill.toNat < 64; omega)]
    have hlen : (scannedPixels ps).length = ps.length + (64 - s.fill.toNat) := by
      rw [hscanned, List.length_append, List.length_replicate]
    have hpadded : Records (scannedPixels ps) (Machine.padChunk s) := hscanned ▸ h.padChunk hs.fill
    have hknown : ∀ p ∈ scannedPixels ps, Known (firstSeen ps) p := fun p hp => by
      rw [hscanned] at hp
      exact (List.mem_append.1 hp).elim known_firstSeen fun hpad => .inl (List.eq_of_mem_replicate hpad)
    cases hscan : Machine.encodeChunk (Machine.padChunk s) with
    | raised c u =>
      rw [hscan] at hdone
      cases hdone
    | ok _ u =>
      obtain ⟨hreg, hempty, hrecords⟩ :=
        hpadded.encodeChunk (hs.colours.padChunk hs.fill) hknown (by omega) rfl hscan
      exact hrecords.finishOperation hreg hempty (by omega)

/-- The PUSH_PIXELs of an operation keep what every single one keeps. -/
theorem run_pushPixels_of_invariant {P : List Pixel → State → Prop}
    (hpush : ∀ ps s rest p, P ps s →
      ∃ t, exec (.pushPixel p) (takeIssue (encode (.pushPixel p)) rest s) = .next t ∧ P (ps ++ [p]) t)
    (qs : List Pixel) {ps : List Pixel} {s : State} {rest : List PortEvent}
    (hp : s.port = (qs.map fun p => issueOf (.pushPixel p)) ++ rest) (h : P ps s) (n : Nat) :
    ∃ t, run (qs.length + n) s = run n t ∧ t.port = rest ∧ P (ps ++ qs) t := by
  induction qs generalizing ps s with
  | nil => exact ⟨s, by rw [List.length_nil, Nat.zero_add], hp, by rwa [List.append_nil]⟩
  | cons q qs ih =>
    obtain ⟨t, e, ht⟩ := hpush ps s _ q h
    obtain ⟨hfirst, hport⟩ := run_issueOf hp e (qs.length + n)
    obtain ⟨u, hrest, hport', hu⟩ := ih hport ht
    exact ⟨u, by rw [List.length_cons, Nat.add_right_comm, hfirst, hrest], hport', by rwa [List.append_assoc] at hu⟩

/-- An encode operation that ends in DONE has its colours in the registry and its chunks in the token stream. -/
theorem streamed_of_run {s t : State} {pixels : List Pixel} (hp : s.port = encodeOperation pixels)
    (hbound : pixels.length + 128 ≤ 2 ^ 32) (hrun : run (pixels.length + 2) s = .next t) (hdone : t.state = .done) :
    Registers (firstSeen pixels) t ∧
      ∃ chunks, scannedPixels pixels = chunks.flatMap chunkPixels ∧ Streamed chunks t := by
  obtain ⟨hstart, hport⟩ := run_issueOf (i := .start) hp rfl (pixels.length + 1)
  obtain ⟨u, hpush, hport', hu⟩ := run_pushPixels_of_invariant (P := Recording)
    (fun ps s rest p h => (h.takeIssue _ rest).pushPixel p) pixels hport (recording_start _) 1
  rw [List.nil_append] at hu
  have hlast : ∀ v, exec .endInput (takeIssue (encode .endInput) [] u) = .next v → v = t := fun v e => by
    have hend : run (pixels.length + 2) s = .next v := by
      rw [hstart, hpush, (run_issueOf hport' e 0).1]
      rfl
    cases hend.symm.trans hrun
    rfl
  rcases hu.takeIssue (encode .endInput) [] with ⟨hacc, hrecords⟩ | hfailed
  · obtain ⟨v, e, hfin | hfail⟩ := hacc.endInput
    · obtain rfl := hlast v e
      exact ⟨hfin.registers, (hrecords hbound).endInput hacc hbound e hdone⟩
    · obtain rfl := hlast v e
      cases hdone.symm.trans hfail.state
  · obtain ⟨v, e, hfail⟩ := hfailed.endInput
    obtain rfl := hlast v e
    cases hdone.symm.trans hfail.state

/-! ## The output and what it decodes to -/

/-- A sequence of reads that each give the byte of a list give the list. -/
theorem mapM_range_eq_some {f : Nat → Option Byte} {bytes : List Byte}
    (h : ∀ j, j < bytes.length → f j = bytes[j]?) : (List.range bytes.length).mapM f = some bytes := by
  induction bytes generalizing f with
  | nil => rfl
  | cons b bs ih =>
    have hhead : f 0 = some b := h 0 (Nat.succ_pos _)
    have htail : (List.range bs.length).mapM (fun j => f (j + 1)) = some bs :=
      ih fun j hj => by rw [h (j + 1) (Nat.succ_lt_succ hj), List.getElem?_cons_succ]
    rw [List.length_cons, List.range_succ_eq_map, List.mapM_cons, List.mapM_map, hhead]
    exact congrArg (fun x => x >>= fun l => some (b :: l)) htail

/-- The output of an operation with these colours and this token stream (R160). -/
def outputBytes (colours : List Pixel) (stream : List Byte) : List Byte :=
  BitVec.ofNat 8 colours.length :: tableBytes colours ++ stream

/-- The output view, byte by byte (R160). -/
theorem Streamed.outView {cs : List Pixel} {chunks : List (Nat → Pixel)} {s : State} (h : Streamed chunks s)
    (hreg : Registers cs s) : outView s = some (outputBytes cs (chunks.flatMap (chunkBytes s))) := by
  have hcolours : realColours s = cs.length := by rw [realColours, hreg.size, Nat.add_sub_cancel]
  have htable := tableBytes_length cs
  have hoffset : tokenOffset s = 1 + (tableBytes cs).length := by rw [tokenOffset, hcolours, htable]
  have hlen : s.outLen.toNat = (outputBytes cs (chunks.flatMap (chunkBytes s))).length := by
    rw [h.outLen, outputLength, hoffset, h.emitted.tokLen, outputBytes, List.cons_append, List.length_cons,
      List.length_append]
    omega
  rw [Machine.outView, hlen]
  refine mapM_range_eq_some fun j hj => ?_
  rw [← hlen, h.outLen, outputLength, hoffset] at hj
  rw [outputBytes, List.cons_append]
  rcases j with _ | j
  · rw [outByte_header, hcolours, List.getElem?_cons_zero]
  · rw [List.getElem?_cons_succ]
    by_cases hj' : j < (tableBytes cs).length
    · have hsplit : j = 3 * (j / 3) + j % 3 := (Nat.div_add_mod j 3).symm
      have hentry : j / 3 < cs.length := by omega
      have hcomponent : j % 3 < 3 := Nat.mod_lt j (by decide)
      have hindex : j + 1 = 1 + 3 * (j / 3) + j % 3 := by omega
      rw [List.getElem?_append_left hj', hindex, outByte_table s (hcolours ▸ hentry) hcomponent,
        hreg.entry _ hentry, ← tableBytes_getElem? cs _ hcomponent, ← hsplit]
    · obtain ⟨m, rfl⟩ := Nat.exists_eq_add_of_le (not_lt.1 hj')
      have hindex : (tableBytes cs).length + m + 1 = tokenOffset s + m := by omega
      rw [List.getElem?_append_right (Nat.le_add_right _ m), Nat.add_sub_cancel_left, hindex,
        outByte_token s (by omega), h.emitted.read m (by omega)]

/-- The decoder has a colour for every entry of the registry. -/
theorem Registers.indexed {cs : List Pixel} {s : State} (h : Registers cs s) (c4 : Nat → Byte) {p : Pixel}
    (hp : (findEntry p s).isSome = true) : Indexed (decodedPalette c4 cs) s p := by
  obtain ⟨k, hk⟩ := Option.isSome_iff_exists.1 hp
  obtain ⟨hlt, -, -⟩ := findEntry_eq_some.1 hk
  rw [h.size] at hlt
  exact ⟨k, hk, Nat.le_of_lt_succ hlt⟩

/-- The colour of an entry has the entry's R, G and B; that of index 0 is the sentinel (R166). -/
theorem Registers.decodesTo {cs : List Pixel} {s : State} (h : Registers cs s) (c4 : Nat → Byte) {p : Pixel}
    (hp : (findEntry p s).isSome = true) : decodesTo c4 p (decodedPixel (decodedPalette c4 cs) s p) := by
  obtain ⟨k, hk⟩ := Option.isSome_iff_exists.1 hp
  obtain ⟨hlt, hentry, hlowest⟩ := findEntry_eq_some.1 hk
  rw [decodedPixel, hk, Option.getD_some]
  cases k with
  | zero =>
    obtain rfl : Config.sentinel = p := Option.some.inj hentry
    exact (if_pos rfl).mpr rfl
  | succ k =>
    have hreal : p ≠ Config.sentinel := fun he => hlowest 0 (Nat.succ_pos k) (by rw [he, palAt_zero])
    have hsize := h.size
    have h7 := h.room
    have hindex : k < cs.length := by omega
    rw [h.entry k hindex] at hentry
    have hcolour : (decodedPalette c4 cs).colours[k + 1]? =
        some (pixelWord (red p) (green p) (blue p) (c4 (1 + k))) := by
      rw [decodedPalette, List.getElem?_cons_succ, tableColours, List.getElem?_mapIdx, hentry, Option.map_some]
    rw [hcolour, Option.getD_some, Machine.decodesTo, if_neg hreal]
    exact ⟨red_pixelWord .., green_pixelWord .., blue_pixelWord .., 1 + k, by omega, by omega,
      component4_pixelWord ..⟩

/-- The output decodes to the chunks' pixels, each as the registry and the decoder's palette give it (R166). -/
theorem Streamed.refDecode {cs : List Pixel} {chunks : List (Nat → Pixel)} {s : State} (h : Streamed chunks s)
    (hreg : Registers cs s) (c4 : Nat → Byte) :
    refDecode c4 (outputBytes cs (chunks.flatMap (chunkBytes s))) =
      .ok ((chunks.flatMap chunkPixels).map (decodedPixel (decodedPalette c4 cs) s)) := by
  rw [Machine.refDecode, outputBytes, readHeader_output c4 hreg.room]
  exact decodeChunks_chunkBytes hreg.room (fun p hp => hreg.indexed c4 (h.emitted.found p hp))
    (length_le_flatMap_chunkBytes s chunks)

/-- Settles O58: a finished operation's token stream is the tokens of the chunks it scanned, which the decoder takes back
to their pixels. -/
theorem operationRoundTrips : Obligations.OperationRoundTrips := by
  intro s t pixels hbound hp hrun hdone
  obtain ⟨hreg, chunks, hscanned, hstream⟩ := streamed_of_run hp hbound hrun hdone
  refine ⟨_, hstream.outView hreg, fun c4 => ⟨_, hstream.refDecode hreg c4, ?_⟩⟩
  rw [hscanned, List.forall₂_map_right_iff, List.forall₂_same]
  exact fun p hp => hreg.decodesTo c4 (hstream.emitted.found p hp)

end Sys2Proof.Machine
end

section
/-! PROOFS. The host commands but for their chunk scans: how a step runs what was fetched (O7, O13), rejection (O12,
O14), and what NOP, START, PUSH_PIXEL, END_INPUT, READ_OUT and READ_OUTLEN do (O16, O17, O18, O20, O23, O24, O25). -/

namespace Sys2Proof.Machine

/-! ## A step on an issued word -/

/-- A word on the port is run in the state that its issue leaves (R180). -/
theorem step_issue {s : State} {f : Fetched} {rest : List PortEvent} (hp : s.port = .issue f :: rest) :
    step s = runFetched f (takeIssue f rest s) := by
  rw [step, hp]

/-- Settles O7: the decoder's answer selects the branch of the step, and the issue is `takeIssue` of either kind of
word. -/
theorem stepRunsDecodedInstruction : Obligations.StepRunsDecodedInstruction := by
  intro s f rest i hp hd
  refine ⟨?_, fun w hw => by rw [hw]; rfl, fun b0 b1 hb => by rw [hb]; rfl⟩
  rw [step_issue hp, runFetched, hd]

/-- Settles O13: the decoder refuses the word, and the step then rejects it as a command. -/
theorem reservedOpcodeIsRejected : Obligations.ReservedOpcodeIsRejected := by
  intro s w rest hp hopc
  have hd : decode (.command w) = .error (.reservedOpcode (opcField w)) := decodeCommand_reserved hopc
  rw [step_issue hp, runFetched, hd]
  rfl

/-! ## The commands that every STATE takes -/

/-- Settles O16: NOP is `return STATUS` alone. -/
theorem nopAnswersStatus : Obligations.NopAnswersStatus := fun _ => rfl

/-- STATUS of an operation just opened: ACCEPTING, and every other field 0 (R184). -/
theorem status_openOperation (s : State) : status (openOperation s) = 0x00000001#32 := by
  have hfields : status (openOperation s) = status (openOperation State.reset) := rfl
  rw [hfields]
  decide

/-- Settles O17: START answers the STATUS of the operation it opens. -/
theorem startOpensOperation : Obligations.StartOpensOperation := by
  intro s
  have hexec : exec .start s = .next (answer (status (openOperation s)) (openOperation s)) := rfl
  rw [hexec, status_openOperation]
  rfl

/-- The header byte alone makes an output of length 1 (R160). -/
theorem outputLength_pos (s : State) : 1 ≤ outputLength s := by
  rw [outputLength, tokenOffset]
  omega

/-- Settles O25: the invariant says what OUT_LEN is outside DONE and in DONE. -/
theorem readOutLenAnswersLength : Obligations.ReadOutLenAnswersLength := by
  have hexec (s : State) : exec .readOutLen s = .next (answer s.outLen s) := rfl
  refine ⟨hexec, fun s h hnd => ?_, fun s h hdone hlt => ?_⟩
  · obtain ⟨hlen, -⟩ := h.outClosed hnd
    exact (hexec s).trans (congrArg Host.Outcome.next (congrArg (answer · s) hlen))
  · rw [h.outLen hdone hlt]
    exact outputLength_pos s

/-! ## READ_OUT -/

/-- Where OUT_RD is below OUT_LEN, moving it up by one stays in 32 bits (R187). -/
theorem setOutRd_succ_of_lt {s : State} (h : s.outRd.toNat < s.outLen.toNat) :
    setOutRd (s.outRd.toNat + 1) s = { s with outRd := s.outRd + 1 } := by
  have hlt : s.outRd.toNat + 1 < 2 ^ 32 := by
    have := s.outLen.isLt
    omega
  have hsucc : BitVec.ofNat 32 (s.outRd.toNat + 1) = s.outRd + 1 := by
    rw [BitVec.ofNat_add, BitVec.ofNat_toNat, BitVec.setWidth_eq]
    rfl
  rw [setOutRd, lengthValue_of_lt s hlt, freeCountAfter_of_lt s hlt, hsucc]

/-- Settles O23: the case of READ_OUT that delivers. -/
theorem readOutDeliversNextByte : Obligations.ReadOutDeliversNextByte := by
  intro s b hdone hlt hbyte
  rcases execReadOut_cases s with ⟨hnd, -⟩ | ⟨-, hend, -⟩ | ⟨-, -, b', hbyte', e⟩ | ⟨-, -, hnone, -⟩
  · exact absurd hdone hnd
  · exact absurd hlt (by rw [hend]; exact lt_irrefl _)
  · cases hbyte.symm.trans hbyte'
    rw [setOutRd_succ_of_lt hlt] at e
    exact e
  · cases hbyte.symm.trans hnone

/-- Settles O24: the two cases of READ_OUT without a byte. -/
theorem readOutWithoutByteAnswersNoData : Obligations.ReadOutWithoutByteAnswersNoData := by
  intro s
  obtain ⟨hnd, e⟩ | ⟨hdone, -, e⟩ | ⟨hdone, hne, -⟩ | ⟨hdone, hne, -⟩ := execReadOut_cases s
  · exact ⟨fun hdone => absurd hdone hnd, fun _ => e⟩
  · exact ⟨fun _ _ => e, absurd hdone⟩
  all_goals exact ⟨fun _ hend => absurd hend hne, absurd hdone⟩

/-! ## PUSH_PIXEL and END_INPUT without a scan -/

/-- Settles O12: outside ACCEPTING both commands are `reject`. -/
theorem illegalPushAndEndAreRejected : Obligations.IllegalPushAndEndAreRejected := by
  intro s hs
  refine ⟨fun p => ?_, ?_⟩
  · obtain ⟨-, e⟩ | ⟨hacc, -⟩ | ⟨hacc, -⟩ := execPushPixel_cases p s
    · exact e
    all_goals exact absurd hacc hs
  · obtain ⟨-, e⟩ | ⟨hacc, -⟩ | ⟨hacc, -⟩ | ⟨hacc, -⟩ := execEndInput_cases s
    · exact e
    all_goals exact absurd hacc hs

/-- Settles O18: below the 64th pixel the store triggers no scan. -/
theorem pushPixelStoresPixel : Obligations.PushPixelStoresPixel := by
  intro p s hacc hfill
  obtain ⟨hne, -⟩ | ⟨-, h64, -⟩ | ⟨-, hlt, e⟩ := execPushPixel_cases p s
  · exact absurd hacc hne
  · omega
  · have hpartial : (storePixel p s).fill ≠ 64#7 := fun hfull => by
      have hsucc := storePixel_fill_toNat p hlt
      rw [hfull, BitVec.toNat_ofNat] at hsucc
      omega
    rw [scanIfFull, if_neg hpartial] at e
    exact ⟨_, e, rfl, fun j hj => chunkAt_storePixel p s hj⟩

/-- The end of an operation where 32 bits hold the output's length (R164, R186). -/
theorem finishOperation_of_lt {s : State} (h : outputLength s < 2 ^ 32) :
    finishOperation s = { s with outLen := BitVec.ofNat 32 (outputLength s), outRd := 0, state := .done } := by
  rw [finishOperation, serializeStream, setOutLen, lengthValue_of_lt s h, freeCountAfter_of_lt s h]

/-- Settles O20: with no partial chunk END_INPUT is the end of the operation alone. -/
theorem endInputWithoutPartialChunk : Obligations.EndInputWithoutPartialChunk := by
  intro s hacc hfill hlt
  obtain ⟨hne, -⟩ | ⟨-, -, e⟩ | ⟨-, h0, -⟩ | ⟨-, h0, -⟩ := execEndInput_cases s
  · exact absurd hacc hne
  · rw [finishOperation_of_lt hlt] at e
    exact e
  all_goals exact absurd hfill h0

/-! ## Rejection -/

theorem encodeChunk_rej (s : State) : (encodeChunk s).final.rej = s.rej := by
  rcases encodeChunk_span s with ⟨u, bs, e, span, -⟩ | ⟨c, u, bs, e, -, span, -⟩
  all_goals rw [e]; exact span.rej

theorem scanIfFull_rej (s : State) : (scanIfFull s).final.rej = s.rej := by
  unfold scanIfFull
  split
  · exact encodeChunk_rej s
  · rfl

/-- Neither end of a command touches REJ (R180, R220). -/
theorem endCommand_rej (x : OpResult Unit) : (endCommand x).rej = x.final.rej := by
  cases x <;> rfl

/-- Serializing at the end of an operation does not touch REJ. -/
theorem andThen_finishOperation_rej (x : OpResult Unit) :
    (x.andThen fun _ s => .ok () (finishOperation s)).final.rej = x.final.rej := by
  cases x <;> rfl

theorem execPushPixel_rej {p : Pixel} {s t : State} (hacc : s.state = .accepting)
    (h : execPushPixel p s = .next t) : t.rej = s.rej := by
  obtain ⟨hne, -⟩ | ⟨-, -, e⟩ | ⟨-, -, e⟩ := execPushPixel_cases p s
  · exact absurd hacc hne
  · cases e.symm.trans h
  · cases e.symm.trans h
    rw [endCommand_rej, scanIfFull_rej, storePixel_rej]

theorem execEndInput_rej {s t : State} (hacc : s.state = .accepting) (h : execEndInput s = .next t) :
    t.rej = s.rej := by
  obtain ⟨hne, -⟩ | ⟨-, -, e⟩ | ⟨-, -, -, e⟩ | ⟨-, -, -, e⟩ := execEndInput_cases s
  · exact absurd hacc hne
  · cases e.symm.trans h
    rfl
  · cases e.symm.trans h
    rfl
  · cases e.symm.trans h
    rw [endCommand_rej, andThen_finishOperation_rej, encodeChunk_rej, padChunk_rej]

theorem execReadOut_rej {s t : State} (hdone : s.state = .done) (h : execReadOut s = .next t) : t.rej = s.rej := by
  obtain ⟨hne, -⟩ | ⟨-, -, e⟩ | ⟨-, -, b, -, e⟩ | ⟨-, -, -, e⟩ := execReadOut_cases s
  · exact absurd hdone hne
  all_goals cases e.symm.trans h
  all_goals rfl

/-- A command that its STATE allows leaves a clear REJ clear (R182). -/
theorem rej_of_legal {i : Instr} {s t : State} (hi : isCommand i = true) (hlegal : legalIn i s.state = true)
    (hs : s.rej = false) (h : exec i s = .next t) : t.rej = false := by
  cases i with
  | nop | readOutLen =>
    cases h
    exact hs
  | start =>
    cases h
    rfl
  | pushPixel p => exact (execPushPixel_rej (of_decide_eq_true hlegal) h).trans hs
  | endInput => exact (execEndInput_rej (of_decide_eq_true hlegal) h).trans hs
  | readOut => exact (execReadOut_rej (of_decide_eq_true hlegal) h).trans hs
  | tokenShort | tokenLong => cases hi

/-- A command that its STATE forbids sets REJ and answers, and does nothing else (R181, R187). -/
theorem exec_of_illegal {i : Instr} {s : State} (h : legalIn i s.state = false) :
    exec i s = .next { s with
      rej := true, result := if i = .readOut then 0xFFFFFFFF#32 else status { s with rej := true } } := by
  cases i with
  | nop | start | readOutLen | tokenShort | tokenLong => cases h
  | pushPixel p =>
    obtain ⟨hpush, -⟩ := illegalPushAndEndAreRejected s (of_decide_eq_false h)
    exact hpush p
  | endInput =>
    obtain ⟨-, hend⟩ := illegalPushAndEndAreRejected s (of_decide_eq_false h)
    exact hend
  | readOut =>
    obtain ⟨-, hread⟩ := readOutWithoutByteAnswersNoData s
    exact hread (of_decide_eq_false h)

/-- Settles O14: a forbidden command sets REJ (`exec_of_illegal`), an allowed one keeps it clear (`rej_of_legal`). -/
theorem rejectedExactlyWhenIllegal : Obligations.RejectedExactlyWhenIllegal := by
  refine ⟨fun i s t hi hs h => ⟨fun ht => ?_, fun hillegal => ?_⟩, fun i s _ hillegal => exec_of_illegal hillegal,
    fun _ => rfl⟩
  · by_contra hne
    cases ht.symm.trans (rej_of_legal hi (Bool.eq_true_of_not_eq_false hne) hs h)
  · cases (exec_of_illegal hillegal).symm.trans h
    rfl

end Sys2Proof.Machine
end

section
/-! PROOFS. The commands that scan a chunk: the 64th PUSH_PIXEL (O19), and END_INPUT with a partial chunk (O21). -/

namespace Sys2Proof.Machine

/-- `u` is what the scan of a chunk makes of `s` where 32 bits hold its token length, before the chunk's completion. -/
structure FramedScan (s u : State) : Prop where
  frame : ScanFrame s u
  chunks : u.chunks = s.chunks
  freeCount : u.freeCount = s.freeCount
  tokLen_le : u.tokLen.toNat ≤ s.tokLen.toNat + 64

theorem ScanSpan.framedScan {s u : State} {bs : List Byte} (h : ScanSpan s u bs) (hbytes : bs.length ≤ 64)
    (hroom : s.tokLen.toNat + 64 < 2 ^ 32) : FramedScan s u := by
  have hlen : s.tokLen.toNat + bs.length < 2 ^ 32 := by omega
  obtain ⟨-, hcount⟩ := appendBytes_tokLen hlen
  exact
    { frame := h.scanFrame hlen
      chunks := h.chunks
      freeCount := h.freeCount.trans hcount
      tokLen_le := by
        rw [h.tokLen_toNat hlen]
        omega }

/-- The two ways ENCODE_CHUNK ends, where 32 bits hold the token length (R120, R128). -/
theorem encodeChunk_framed {s : State} (hroom : s.tokLen.toNat + 64 < 2 ^ 32) :
    (∃ u, encodeChunk s = .ok () (completeChunk u) ∧ FramedScan s u) ∨
    (∃ c u, encodeChunk s = .raised c u ∧ (c = .paletteFull ∨ c = .outputOverflow) ∧ FramedScan s u) := by
  rcases encodeChunk_span s with ⟨u, bs, e, span, hbytes⟩ | ⟨c, u, bs, e, hc, span, hbytes⟩
  · exact .inl ⟨u, e, span.framedScan hbytes hroom⟩
  · exact .inr ⟨c, u, e, hc, span.framedScan hbytes hroom⟩

/-- Chunk completion counts the chunk (R128). -/
theorem FramedScan.chunks_completeChunk {s u : State} (h : FramedScan s u) :
    (completeChunk u).chunks = s.chunks + 1 := by
  rw [completeChunk_chunks, h.chunks]

/-- A command that ran an internal operation answers STATUS, after an error too (R180, R220). -/
theorem endCommand_result (x : OpResult Unit) : (endCommand x).result = status (endCommand x) := by
  cases x <;> rfl

/-- Settles O19: the store makes FILL 64, so that the chunk is scanned; the scan's frame is `encodeChunk_framed`. -/
theorem pushPixelCompletesChunk : Obligations.PushPixelCompletesChunk := by
  intro p s hacc hfill hroom
  have hfull : (storePixel p s).fill = 64#7 := by
    rw [storePixel_fill, hfill]
    rfl
  have hexec : exec (.pushPixel p) s = .next (endCommand (encodeChunk (storePixel p s))) := by
    obtain ⟨hne, -⟩ | ⟨-, h64, -⟩ | ⟨-, -, e⟩ := execPushPixel_cases p s
    · exact absurd hacc hne
    · rw [hfill] at h64
      exact absurd h64 (by decide)
    · rwa [scanIfFull, if_pos hfull] at e
  refine ⟨_, hexec, endCommand_result _, fun j hj => ?_, ?_⟩
  · rw [chunkAt_storePixel p s hj, hfill]
    rfl
  · rcases encodeChunk_framed (s := storePixel p s) hroom with ⟨u, e, h⟩ | ⟨c, u, e, hc, h⟩
    · exact .inl ⟨completeChunk u, e, h.frame.completeChunk, h.freeCount, rfl, h.chunks_completeChunk, by rw [e]; rfl⟩
    · exact .inr ⟨c, u, e, hc, h.frame, h.freeCount, h.chunks, by rw [e]; rfl⟩

/-- A scan that started below 2^32 - 128 token bytes leaves an output whose length 32 bits hold. -/
theorem FramedScan.outputLength_lt {s u : State} (h : FramedScan s u) (hroom : s.tokLen.toNat + 128 < 2 ^ 32) :
    outputLength u < 2 ^ 32 := by
  have hsize := u.palSize.isLt
  have htokens := h.tokLen_le
  rw [outputLength, tokenOffset, realColours]
  omega

/-- Settles O21: the padded chunk is scanned, and a scan that completes leads to the end of the operation. -/
theorem endInputPadsPartialChunk : Obligations.EndInputPadsPartialChunk := by
  intro s hacc hne0 hpad hroom
  have hexec : exec .endInput s =
      .next (endCommand ((encodeChunk (padChunk s)).andThen fun _ u => .ok () (finishOperation u))) := by
    obtain ⟨hne, -⟩ | ⟨-, h0, -⟩ | ⟨-, -, hreject, -⟩ | ⟨-, -, -, e⟩ := execEndInput_cases s
    · exact absurd hacc hne
    · exact absurd h0 hne0
    · cases hpad.symm.trans hreject
    · exact e
  have hscanRoom : (padChunk s).tokLen.toNat + 64 < 2 ^ 32 := by
    rw [padChunk_tokLen]
    omega
  refine ⟨_, hexec, endCommand_result _, fun j hj => chunkAt_padChunk s hj, ?_⟩
  rcases encodeChunk_framed hscanRoom with ⟨u, e, h⟩ | ⟨c, u, e, hc, h⟩
  · have hlt : outputLength (completeChunk u) < 2 ^ 32 := h.outputLength_lt hroom
    refine .inl ⟨completeChunk u, e, h.frame.completeChunk, h.freeCount, rfl, h.chunks_completeChunk, ?_⟩
    rw [e, OpResult.andThen_ok, finishOperation_of_lt hlt]
    rfl
  · exact .inr ⟨c, u, e, hc, h.frame, h.freeCount, h.chunks, by rw [e]; rfl⟩

end Sys2Proof.Machine
end

section
/-! PROOFS. The read-out of a finished operation, byte by byte to NO_DATA (O44). -/

namespace Sys2Proof.Machine

/-! ## The bytes of the output view -/

/-- A sequence of reads that succeeds has read each of its bytes. -/
theorem forall₂_of_mapM_eq_some {α β : Type} {f : α → Option β} {l : List α} {l' : List β}
    (h : l.mapM f = some l') : List.Forall₂ (fun a b => f a = some b) l l' := by
  induction l generalizing l' with
  | nil =>
    cases h
    exact .nil
  | cons a l ih =>
    rw [List.mapM_cons] at h
    obtain ⟨b, hb, h⟩ := Option.bind_eq_some_iff.1 h
    obtain ⟨bs, hbs, h⟩ := Option.bind_eq_some_iff.1 h
    cases h
    exact .cons hb (ih hbs)

/-- An output view that is readable has OUT_LEN bytes, each the output byte of its offset (R54). -/
theorem outByte_of_outView {s : State} {bytes : List Byte} (h : outView s = some bytes) :
    s.outLen.toNat = bytes.length ∧ ∀ k b, bytes[k]? = some b → outByte s k = some b := by
  have hreads := forall₂_of_mapM_eq_some h
  refine ⟨by rw [← hreads.length_eq, List.length_range], fun k b hb => ?_⟩
  obtain ⟨hk, rfl⟩ := List.getElem?_eq_some_iff.1 hb
  have hget := hreads.get (i := k) (by rwa [hreads.length_eq]) hk
  rwa [List.get_eq_getElem, List.getElem_range] at hget

/-- OUT is a view of the registry and TOKBUF alone (R54, R160). -/
theorem outByte_congr {s t : State} (hpal : t.pal = s.pal) (hsize : t.palSize = s.palSize)
    (hbuf : t.tokBuf = s.tokBuf) (hlen : t.tokLen = s.tokLen) (k : Nat) : outByte t k = outByte s k := by
  have hcolours : realColours t = realColours s := by rw [realColours, realColours, hsize]
  have hentry (j : Nat) : tableEntry t j = tableEntry s j := by
    rw [tableEntry, tableEntry, hcolours, palAt_congr hpal]
  have hoffset : tokenOffset t = tokenOffset s := by rw [tokenOffset, tokenOffset, hcolours]
  have hlength : outputLength t = outputLength s := by rw [outputLength, outputLength, hoffset, hlen]
  rw [outByte, outByte, hcolours, hentry, hoffset, hlength, hbuf]

/-! ## The course of a read-out -/

/-- The operation has the output `bytes`, of which the first `k` have been read; REJ reads `rej`. -/
structure ReadingOut (bytes : List Byte) (rej : Bool) (k : Nat) (s : State) : Prop where
  state : s.state = .done
  rej : s.rej = rej
  outRd : s.outRd.toNat = k
  outLen : s.outLen.toNat = bytes.length
  byte : ∀ j b, bytes[j]? = some b → outByte s j = some b

section
variable {bytes : List Byte} {rej : Bool} {k : Nat} {s : State}

theorem readingOut_of_outView (hdone : s.state = .done) (hrd : s.outRd = 0#32) (h : outView s = some bytes) :
    ReadingOut bytes s.rej 0 s := by
  obtain ⟨hlen, hbyte⟩ := outByte_of_outView h
  exact ⟨hdone, rfl, by rw [hrd]; rfl, hlen, hbyte⟩

theorem ReadingOut.withPort (h : ReadingOut bytes rej k s) (port : List PortEvent) :
    ReadingOut bytes rej k { s with port := port } := { h with }

theorem ReadingOut.takeIssue (h : ReadingOut bytes rej k s) (f : Fetched) (rest : List PortEvent) :
    ReadingOut bytes rej k (takeIssue f rest s) where
  state := by rw [takeIssue_state, h.state]
  rej := by rw [takeIssue_rej, h.rej]
  outRd := by rw [takeIssue_outRd, h.outRd]
  outLen := by rw [takeIssue_outLen, h.outLen]
  byte := fun j b hb => by
    rw [outByte_congr (takeIssue_pal ..) (takeIssue_palSize ..) (takeIssue_tokBuf ..) (takeIssue_tokLen ..)]
    exact h.byte j b hb

/-- A READ_OUT before the end delivers the byte that is next (R187). -/
theorem ReadingOut.readOut (h : ReadingOut bytes rej k s) {b : Byte} (hb : bytes[k]? = some b) :
    ∃ t, exec .readOut s = .next t ∧ t.result = b.setWidth 32 ∧ ReadingOut bytes rej (k + 1) t := by
  obtain ⟨hk, -⟩ := List.getElem?_eq_some_iff.1 hb
  have hlt : s.outRd.toNat < s.outLen.toNat := by rwa [h.outRd, h.outLen]
  have hbyte : outByte s s.outRd.toNat = some b := by rw [h.outRd, h.byte k b hb]
  have hsucc : (s.outRd + 1).toNat = k + 1 := by
    have hbound := s.outLen.isLt
    rw [h.outLen] at hbound
    rw [BitVec.toNat_add, h.outRd]
    exact Nat.mod_eq_of_lt (by change k + 1 < 2 ^ 32; omega)
  exact ⟨_, readOutDeliversNextByte s b h.state hlt hbyte, rfl, { h with outRd := hsucc }⟩

/-- After the last byte OUT_RD is OUT_LEN. -/
theorem ReadingOut.outRd_eq_outLen (h : ReadingOut bytes rej bytes.length s) : s.outRd = s.outLen :=
  BitVec.eq_of_toNat_eq (h.outRd.trans h.outLen.symm)

/-- READ_OUTs of bytes that are left move OUT_RD up by their number, whatever is run after them. -/
theorem ReadingOut.run_readOuts (n : Nat) {rest : List PortEvent} (h : ReadingOut bytes rej k s)
    (hn : k + n ≤ bytes.length) (hp : s.port = List.replicate n (issueOf .readOut) ++ rest) (m : Nat) :
    ∃ t, run (n + m) s = run m t ∧ t.port = rest ∧ ReadingOut bytes rej (k + n) t := by
  induction n generalizing k s with
  | zero => exact ⟨s, by rw [Nat.zero_add], hp, h⟩
  | succ n ih =>
    obtain ⟨t, e, -, ht⟩ := (h.takeIssue (encode .readOut) (List.replicate n (issueOf .readOut) ++ rest)).readOut
      (List.getElem?_eq_getElem (by omega : k < bytes.length))
    obtain ⟨hfirst, hport⟩ := run_issueOf hp e (n + m)
    obtain ⟨u, hrest, hport', hu⟩ := ih ht (by omega) hport
    exact ⟨u, by rw [Nat.add_right_comm, hfirst, hrest], hport', by rwa [Nat.add_right_comm] at hu⟩

/-- A read-out of `n` bytes from the start, and the state in which one READ_OUT more stands on the port. -/
theorem ReadingOut.run_succ_readOuts (h : ReadingOut bytes rej 0 s) {n : Nat} (hn : n ≤ bytes.length) :
    ∃ t, run (n + 1) { s with port := List.replicate (n + 1) (issueOf .readOut) } = run 1 t ∧
      t.port = [issueOf .readOut] ∧ ReadingOut bytes rej n t := by
  obtain ⟨t, hrun, hport, ht⟩ := (h.withPort (List.replicate (n + 1) (issueOf .readOut))).run_readOuts n (by omega)
    List.replicate_succ' 1
  exact ⟨t, hrun, hport, by rwa [Nat.zero_add] at ht⟩

end

/-- Settles O44: `k` READ_OUTs take the read-out to byte `k`, which the next one delivers; behind the last byte it
answers NO_DATA. -/
theorem outputIsReadInOrder : Obligations.OutputIsReadInOrder := by
  intro s bytes hdone hrd hview
  have hstart := readingOut_of_outView hdone hrd hview
  refine ⟨fun k b hb => ?_, ?_⟩
  · obtain ⟨hk, -⟩ := List.getElem?_eq_some_iff.1 hb
    obtain ⟨t, hrun, hport, ht⟩ := hstart.run_succ_readOuts hk.le
    obtain ⟨u, e, hresult, hu⟩ := (ht.takeIssue (encode .readOut) []).readOut hb
    exact ⟨u, hrun.trans (run_issueOf hport e 0).1, hresult, hu.outRd⟩
  · obtain ⟨t, hrun, hport, ht⟩ := hstart.run_succ_readOuts le_rfl
    have hlast := ht.takeIssue (encode .readOut) []
    obtain ⟨hend, -⟩ := readOutWithoutByteAnswersNoData (takeIssue (encode .readOut) [] t)
    have e := hend hlast.state hlast.outRd_eq_outLen
    refine ⟨_, hrun.trans (run_issueOf hport e 0).1, rfl, hlast.rej, BitVec.eq_of_toNat_eq ?_⟩
    exact hlast.outRd.trans hstart.outLen.symm

end Sys2Proof.Machine
end

section
/-! PROOFS. Errors: what raises MALFORMED_INPUT (O22) and OUTPUT_OVERFLOW (O42), what the error entry leaves (O46), and
how ERROR is left (O47). -/

namespace Sys2Proof.Machine

/-! ## The error entry (R220) -/

/-- The STATUS that the error entry answers is that of the state it leads to. -/
theorem errorEntry_result (c : ErrCode) (s : State) : (errorEntry c s).result = status (errorEntry c s) :=
  endCommand_result (.raised c s)

/-- Settles O46: the error entry's answer, and its field values. -/
theorem errorEntryDiscardsOutput : Obligations.ErrorEntryDiscardsOutput :=
  fun c s => ⟨errorEntry_result c s, rfl⟩

/-! ## OUTPUT_OVERFLOW in a scan (R214, R65) -/

/-- A capacity without room for some bytes has none for more. -/
theorem capFits_eq_false_of_le {c : TokCap} {m n : Nat} (hmn : m ≤ n) (h : capFits c m = false) :
    capFits c n = false :=
  Bool.eq_false_iff.2 fun hn => Bool.eq_false_iff.1 h (capFits_mono hmn hn)

/-- A scan step's token has at most as many bytes as the step takes positions from the window (R127, R130). -/
theorem scanToken_length_le (i : PalIndex) (pixel : Nat → Pixel) {head tail : Nat} (h : head ≤ tail) :
    (packToken i (headAfter pixel head tail - head) (tail - tailAfter pixel head tail)).length +
      (tailAfter pixel head tail + 1 - headAfter pixel head tail) ≤ tail + 1 - head := by
  obtain ⟨_, _, hhead, _⟩ := scan_cursors pixel h
  obtain ⟨-, hbytes⟩ := packToken_length_le i (t := tail - tailAfter pixel head tail)
    (h := headAfter pixel head tail - head) (by omega)
  omega

/-- A scan step that completes keeps the capacity, and the end of the buffer that the rest of the window can reach. -/
theorem scanStep_ok_room {s t : State} (hw : s.head.toNat ≤ s.tail.toNat) (h : scanStep s = .ok () t) :
    t.params = s.params ∧
      t.tokLen.toNat + (t.tail.toNat + 1 - t.head.toNat) ≤ s.tokLen.toNat + (s.tail.toNat + 1 - s.head.toNat) := by
  obtain ⟨i, span, -, hhead, htail⟩ := scanStep_ok hw h
  have hbytes := scanToken_length_le i (chunkAt s) hw
  refine ⟨span.params, ?_⟩
  rw [span.tokLen, hhead, htail]
  exact (Nat.add_le_add_right (appendBytes_tokLen_le _ s) _).trans (by omega)

/-- A scan step raises OUTPUT_OVERFLOW only where the buffer has not room for a byte for each position of the window. -/
theorem scanStep_overflow {s t : State} (hw : s.head.toNat ≤ s.tail.toNat)
    (h : scanStep s = .raised .outputOverflow t) :
    capFits s.params.tokCap (s.tokLen.toNat + (s.tail.toNat + 1 - s.head.toNat)) = false := by
  obtain ⟨-, ⟨hc, -⟩ | ⟨-, i, hfull⟩⟩ := scanStep_raised hw h
  · cases hc
  · have hbytes := scanToken_length_le i (chunkAt s) hw
    exact capFits_eq_false_of_le (by omega) hfull

/-- The same of the scan of a whole window: what the steps before the raise appended, they took from the window. -/
theorem scanLoop_overflow (n : Nat) {s t : State} (h : scanLoop n s = .raised .outputOverflow t) :
    capFits s.params.tokCap (s.tokLen.toNat + (s.tail.toNat + 1 - s.head.toNat)) = false := by
  induction n generalizing s with
  | zero => cases h
  | succ n ih =>
    rcases Nat.lt_or_ge s.tail.toNat s.head.toNat with hlt | hw
    · rw [scanLoop_of_lt _ hlt] at h
      cases h
    · rw [scanLoop_of_le n hw] at h
      rcases OpResult.andThen_eq_raised h with hstep | ⟨⟨⟩, u, hstep, hrest⟩
      · exact scanStep_overflow hw hstep
      · obtain ⟨hparams, hroom⟩ := scanStep_ok_room hw hstep
        rw [← hparams]
        exact capFits_eq_false_of_le hroom (ih hrest)

/-- Settles O42: the window of a chunk has 64 positions. The bound on the lengths is not needed, since a free value is
never above the length it stands for (log entry 8). -/
theorem overflowOnlyWhenBufferShort : Obligations.OverflowOnlyWhenBufferShort := by
  intro s t _ h
  rw [encodeChunk] at h
  rcases OpResult.andThen_eq_raised h with hloop | ⟨_, _, -, hdone⟩
  · have hfull : capFits s.params.tokCap (s.tokLen.toNat + 64) = false := scanLoop_overflow Config.chunk hloop
    have hshort := mt capFits_iff.2 (Bool.eq_false_iff.1 hfull)
    push Not at hshort
    exact hshort
  · cases hdone

/-! ## MALFORMED_INPUT (R213) -/

section
variable {s t : State}

/-- Serializing at the end of an operation does not touch ERR. -/
theorem andThen_finishOperation_err (x : OpResult Unit) :
    (endCommand (x.andThen fun _ u => .ok () (finishOperation u))).err = (endCommand x).err := by
  cases x <;> rfl

theorem encodeChunk_not_malformedInput (hs : s.err ≠ .malformedInput) :
    (endCommand (encodeChunk s)).err ≠ .malformedInput := by
  rcases encodeChunk_span s with ⟨u, bs, e, span, -⟩ | ⟨c, u, bs, e, rfl | rfl, -⟩
  · rw [e]
    exact span.err ▸ hs
  all_goals rw [e]; exact nofun

theorem emitToken_not_malformedInput (i : PalIndex) (h t : Nat) (hs : s.err ≠ .malformedInput) :
    (endToken (emitToken i h t s)).err ≠ .malformedInput := by
  rcases emitToken_cases i h t s with ⟨-, -, e⟩ | ⟨-, -, e⟩ | ⟨-, e⟩
  · rw [e]
    exact (ScanSpan.append _ s).err ▸ hs
  all_goals rw [e]; exact nofun

theorem execPushPixel_not_malformedInput {p : Pixel} (hs : s.err ≠ .malformedInput)
    (h : execPushPixel p s = .next t) : t.err ≠ .malformedInput := by
  obtain ⟨-, e⟩ | ⟨-, -, e⟩ | ⟨-, -, e⟩ := execPushPixel_cases p s
  all_goals cases e.symm.trans h
  · exact hs
  · unfold scanIfFull
    split
    · exact encodeChunk_not_malformedInput hs
    · exact hs

theorem execReadOut_err (h : execReadOut s = .next t) : t.err = s.err := by
  obtain ⟨-, e⟩ | ⟨-, -, e⟩ | ⟨-, -, b, -, e⟩ | ⟨-, -, -, e⟩ := execReadOut_cases s
  all_goals cases e.symm.trans h
  all_goals rfl

/-- END_INPUT newly leads to MALFORMED_INPUT only with a partial chunk under REJECT (R186). -/
theorem execEndInput_malformedInput (hs : s.err ≠ .malformedInput) (h : execEndInput s = .next t)
    (ht : t.err = .malformedInput) : s.state = .accepting ∧ s.fill ≠ 0#7 ∧ s.params.padPolicy = .reject := by
  obtain ⟨-, e⟩ | ⟨-, -, e⟩ | ⟨hacc, hfill, hreject, -⟩ | ⟨-, -, -, e⟩ := execEndInput_cases s
  · cases e.symm.trans h
    exact absurd ht hs
  · cases e.symm.trans h
    exact absurd ht hs
  · exact ⟨hacc, hfill, hreject⟩
  · cases e.symm.trans h
    rw [andThen_finishOperation_err] at ht
    exact absurd ht (encodeChunk_not_malformedInput hs)

/-- R213: END_INPUT under REJECT with a partial chunk. -/
theorem execEndInput_of_reject (hacc : s.state = .accepting) (hfill : s.fill ≠ 0#7)
    (hreject : s.params.padPolicy = .reject) : execEndInput s = .next (errorEntry .malformedInput s) := by
  obtain ⟨hne, -⟩ | ⟨-, h0, -⟩ | ⟨-, -, -, e⟩ | ⟨-, -, hpad, -⟩ := execEndInput_cases s
  · exact absurd hacc hne
  · exact absurd h0 hfill
  · exact e
  · cases hreject.symm.trans hpad

end

/-- Settles O22: END_INPUT's own case, and that no other instruction and no scan makes ERR that code. -/
theorem malformedInputUnderRejectOnly : Obligations.MalformedInputUnderRejectOnly := by
  refine ⟨fun s hacc hfill hreject => ?_, fun i s t hs h ht => ?_⟩
  · exact ⟨_, execEndInput_of_reject hacc hfill hreject, errorEntry_result _ s, rfl⟩
  · cases i with
    | nop | readOutLen =>
      cases h
      exact absurd ht hs
    | start =>
      cases h
      cases ht
    | pushPixel p => exact absurd ht (execPushPixel_not_malformedInput hs h)
    | endInput => exact ⟨rfl, execEndInput_malformedInput hs h ht⟩
    | readOut => exact absurd ((execReadOut_err h).symm.trans ht) hs
    | tokenShort k hd | tokenLong k hd tl =>
      cases h
      exact absurd ht (emitToken_not_malformedInput k _ _ hs)

/-! ## ERROR is left by START alone (R219, R222) -/

/-- In ERROR a command other than START changes RESULT and REJ at most. -/
theorem Effect.eq_answer_of_error {s t : State} {i : Instr} (e : Effect s i t) (hi : isCommand i = true)
    (hne : i ≠ .start) (hs : s.state = .error) : ∃ v, t = answer v s ∨ t = answer v (setRej s) := by
  cases e with
  | answered _ v => exact ⟨v, .inl rfl⟩
  | rejected _ v => exact ⟨v, .inr rfl⟩
  | opened => exact absurd rfl hne
  | stored _ hstate | chunkDone _ hstate | chunkRaised _ hstate | finished hstate | malformed hstate
  | paddedDone hstate | paddedRaised hstate | delivered _ hstate => cases hs.symm.trans hstate
  | emitted _ _ htok | emitRaised _ htok => cases hi.symm.trans htok

/-- Settles O47: a legal ERROR state holds no tokens and no output, and only START changes more than RESULT and REJ. -/
theorem errorLeftOnlyByStart : Obligations.ErrorLeftOnlyByStart := by
  intro i s t hinv hs hi h
  have hnd : s.state ≠ .done := by
    rw [hs]
    exact nofun
  refine ⟨?_, fun hne => ?_, ?_⟩
  · rintro rfl
    cases h
    exact ⟨rfl, rfl⟩
  · obtain ⟨hlen, -⟩ := hinv.outClosed hnd
    obtain ⟨v, rfl | rfl⟩ := (exec_effect h).eq_answer_of_error hi hne hs
    all_goals exact ⟨hs, rfl, rfl, rfl, rfl, hlen, hinv.errorEmpty hs⟩
  · rintro rfl
    exact execReadOut_result_of_not_done h hnd

end Sys2Proof.Machine
end

section
/-! PROOFS. The wait (O8), reset (O9) and the block until START (O10); which instructions stop and when (O26), and that
no step from a legal state does (O55). -/

namespace Sys2Proof.Machine

/-! ## Waiting, reset, and the block until START -/

theorem step_wait {s : State} (hp : s.port = []) : step s = .next s := by
  rw [step, hp]

theorem step_reset {s : State} {rest : List PortEvent} (hp : s.port = .reset :: rest) :
    step s = .next (takeReset rest s) := by
  rw [step, hp]

/-- Settles O8: the wait is the step's branch for an empty port. -/
theorem emptyPortWaits : Obligations.EmptyPortWaits := fun _ => step_wait

/-- Settles O9: the step takes the reset, which sets each of these elements whatever it was. -/
theorem resetTakesResetValues : Obligations.ResetTakesResetValues := fun _ _ hp =>
  ⟨_, step_reset hp, rfl, rfl, rfl, rfl, rfl, rfl, rfl, rfl, rfl, rfl⟩

/-- A step on the host's events leaves IDLE by START alone (R23). -/
theorem idle_or_start_of_step {s t : State} (hidle : s.state = .idle) (hport : ∀ e ∈ s.port, atPort e = true)
    (h : step s = .next t) : t.state = .idle ∨ ∃ f rest, s.port = .issue f :: rest ∧ decode f = .ok .start := by
  by_cases hsame : t.state = s.state
  · exact .inl (hsame.trans hidle)
  · obtain ⟨-, -, htransition⟩ := stateTransitions s t hport h
    rcases htransition hsame with ⟨ht, -⟩ | ⟨-, hstart⟩ | ⟨hacc, -⟩ | ⟨hacc, -⟩
    · exact .inl ht
    · exact .inr hstart
    all_goals cases hidle.symm.trans hacc

/-- Settles O10: NOP, READ_OUTLEN and START are taken in every STATE, `exec_of_illegal` says what the three forbidden
commands do, and `stateTransitions` what can leave IDLE. -/
theorem afterResetOnlyStartOpens : Obligations.AfterResetOnlyStartOpens := by
  refine ⟨⟨rfl, by decide⟩, fun s hidle => ?_, fun _ _ => idle_or_start_of_step⟩
  have hforbidden {i : Instr} (hi : legalIn i .idle = false) : legalIn i s.state = false := by rwa [hidle]
  exact ⟨step_wait, rfl, rfl, fun _ => exec_of_illegal (hforbidden rfl), exec_of_illegal (hforbidden rfl),
    exec_of_illegal (hforbidden rfl), _, rfl, rfl⟩

/-! ## Stops -/

/-- The two stops of the model: where CHUNK_BUF has no entry for the pixel, and where the output byte holds no value
(log entries 12 and 7). -/
inductive Stops (s : State) : Instr → Fault → Prop where
  | chunkBufRange (p : Pixel) : s.state = .accepting → 64 ≤ s.fill.toNat → Stops s (.pushPixel p) .chunkBufRange
  | outNoValue : s.state = .done → s.outRd ≠ s.outLen → outByte s s.outRd.toNat = none → Stops s .readOut .outNoValue

theorem stops_iff {s : State} {i : Instr} {r : Fault} :
    Stops s i r ↔
      (r = .chunkBufRange ∧ (∃ p, i = .pushPixel p) ∧ s.state = .accepting ∧ 64 ≤ s.fill.toNat) ∨
      (r = .outNoValue ∧ i = .readOut ∧ s.state = .done ∧ s.outRd ≠ s.outLen ∧ outByte s s.outRd.toNat = none) := by
  constructor
  · rintro (⟨p, hacc, hfill⟩ | ⟨hdone, hne, hbyte⟩)
    · exact .inl ⟨rfl, ⟨p, rfl⟩, hacc, hfill⟩
    · exact .inr ⟨rfl, rfl, hdone, hne, hbyte⟩
  · rintro (⟨rfl, ⟨p, rfl⟩, hacc, hfill⟩ | ⟨rfl, rfl, hdone, hne, hbyte⟩)
    · exact .chunkBufRange p hacc hfill
    · exact .outNoValue hdone hne hbyte

theorem Stops.exec_eq {s : State} {i : Instr} {r : Fault} (h : Stops s i r) : exec i s = .fault r := by
  cases h with
  | chunkBufRange p hacc hfill =>
    obtain ⟨hne, -⟩ | ⟨-, -, e⟩ | ⟨-, hlt, -⟩ := execPushPixel_cases p s
    · exact absurd hacc hne
    · exact e
    · omega
  | outNoValue hdone hne hbyte =>
    obtain ⟨hnd, -⟩ | ⟨-, hend, -⟩ | ⟨-, -, b, hb, -⟩ | ⟨-, -, -, e⟩ := execReadOut_cases s
    · exact absurd hdone hnd
    · exact absurd hend hne
    · cases hbyte.symm.trans hb
    · exact e

/-- What is no stop goes on: no instruction is refused. -/
theorem exec_next_or_stops (i : Instr) (s : State) :
    (∃ t, exec i s = .next t) ∨ ∃ r, exec i s = .fault r ∧ Stops s i r := by
  cases i with
  | nop | start | readOutLen | tokenShort | tokenLong => exact .inl ⟨_, rfl⟩
  | pushPixel p =>
    obtain ⟨-, e⟩ | ⟨hacc, hfill, e⟩ | ⟨-, -, e⟩ := execPushPixel_cases p s
    · exact .inl ⟨_, e⟩
    · exact .inr ⟨_, e, .chunkBufRange p hacc hfill⟩
    · exact .inl ⟨_, e⟩
  | endInput =>
    obtain ⟨-, e⟩ | ⟨-, -, e⟩ | ⟨-, -, -, e⟩ | ⟨-, -, -, e⟩ := execEndInput_cases s
    all_goals exact .inl ⟨_, e⟩
  | readOut =>
    obtain ⟨-, e⟩ | ⟨-, -, e⟩ | ⟨-, -, b, -, e⟩ | ⟨hdone, hne, hbyte, e⟩ := execReadOut_cases s
    · exact .inl ⟨_, e⟩
    · exact .inl ⟨_, e⟩
    · exact .inl ⟨_, e⟩
    · exact .inr ⟨_, e, .outNoValue hdone hne hbyte⟩

/-- Settles O26: `Stops` lists the two cases, each a fault (`Stops.exec_eq`), and there is no other
(`exec_next_or_stops`). -/
theorem stopsAreCharacterised : Obligations.StopsAreCharacterised := by
  intro i s
  refine ⟨(exec_next_or_stops i s).imp_right fun ⟨r, e, _⟩ => ⟨r, e⟩, fun r => ?_⟩
  rw [← stops_iff]
  refine ⟨fun h => ?_, Stops.exec_eq⟩
  obtain ⟨t, e⟩ | ⟨r', e, hstops⟩ := exec_next_or_stops i s
  · cases e.symm.trans h
  · cases e.symm.trans h
    exact hstops

/-! ## Legal states -/

/-- Every entry of the palette table holds a value: the registry has no more than 7 real colours (R28). -/
theorem tableEntry_isSome {s : State} {k : Nat} (h8 : s.palSize.toNat ≤ 8) (hk : k < realColours s) :
    (tableEntry s k).isSome = true := by
  have h7 : k < 7 := by
    rw [realColours] at hk
    omega
  rw [tableEntry, if_pos hk, palAt_succ, Vector.getElem?_eq_getElem h7]
  rfl

/-- Every byte of a legal state's output holds a value (R33, R54). -/
theorem Inv.outByte_isSome {s : State} (h : Inv s) {k : Nat} (hk : k < outputLength s) :
    (outByte s k).isSome = true := by
  obtain ⟨-, h8⟩ := h.palSize
  unfold outByte
  split_ifs with h0 htable
  · rfl
  · rw [Option.isSome_map]
    exact tableEntry_isSome h8 (by rw [tokenOffset] at htable; omega)
  · exact h.tokBytes _ (by rw [outputLength] at hk; omega)

/-- What is still to be read in DONE lies inside the output, also where 32 bits do not hold its length. -/
theorem Inv.outRd_lt_outputLength {s : State} (h : Inv s) (hdone : s.state = .done) (hne : s.outRd ≠ s.outLen) :
    s.outRd.toNat < outputLength s := by
  by_cases hfits : outputLength s < 2 ^ 32
  · rw [← h.outLen hdone hfits]
    exact lt_of_le_of_ne h.outRd fun e => hne (BitVec.eq_of_toNat_eq e)
  · have hword := s.outRd.isLt
    omega

theorem Inv.not_stops {s : State} (h : Inv s) (i : Instr) (r : Fault) : ¬ Stops s i r := by
  rintro (⟨p, -, hfill⟩ | ⟨hdone, hne, hbyte⟩)
  · have hle := h.fill
    omega
  · have hsome := h.outByte_isSome (h.outRd_lt_outputLength hdone hne)
    rw [hbyte] at hsome
    cases hsome

/-- Settles O55: the issue of a word leaves a legal state, and in a legal state no stop applies. -/
theorem legalStatesNeverStop : Obligations.LegalStatesNeverStop := by
  intro s h
  obtain ⟨-, e⟩ | ⟨rest, -, e⟩ | ⟨f, rest, i, hp, -, e⟩ | ⟨f, rest, opc, -, -, e⟩ := step_cases s
  · exact ⟨_, e⟩
  · exact ⟨_, e⟩
  · obtain ⟨t, hnext⟩ | ⟨r, -, hstops⟩ := exec_next_or_stops i (takeIssue f rest s)
    · exact ⟨t, e.trans hnext⟩
    · exact absurd hstops ((h.takeIssue hp).not_stops i r)
  · exact ⟨_, e⟩

end Sys2Proof.Machine
end

section
/-! PROOFS. Nothing a step does depends on state that holds no value (O56): from two states that agree on what does hold
a value, every operation ends alike, in two such states. -/

namespace Sys2Proof.Machine

/-! ## What two states that agree on their values both read -/

theorem SameLive.realColours_eq {s t : State} (h : SameLive s t) : realColours s = realColours t := by
  rw [realColours, realColours, h.palSize]

theorem SameLive.status_eq {s t : State} (h : SameLive s t) : status s = status t := by
  rw [status, status, h.chunks, h.fill, h.realColours_eq, h.err, h.rej, h.state]

theorem SameLive.lengthValue_eq {s t : State} (h : SameLive s t) (n : Nat) : lengthValue n s = lengthValue n t := by
  rw [lengthValue, lengthValue, h.freeCount]

theorem SameLive.freeCountAfter_eq {s t : State} (h : SameLive s t) (n : Nat) :
    freeCountAfter n s = freeCountAfter n t := by
  rw [freeCountAfter, freeCountAfter, h.freeCount]

/-- A lookup compares valid entries only (R102). -/
theorem SameLive.findEntry_eq {s t : State} (h : SameLive s t) (p : Pixel) : findEntry p s = findEntry p t := by
  rw [findEntry, findEntry, ← h.palSize]
  exact List.find?_congr fun k hk => by rw [h.pal k (List.mem_range.1 hk)]

/-- Of a full chunk every position holds a value (R31). -/
theorem SameLive.chunkAt_eq {s t : State} (h : SameLive s t) (hfull : 64 ≤ s.fill.toNat) : chunkAt s = chunkAt t := by
  funext j
  by_cases hj : j < 64
  · exact h.chunkBuf j (by omega)
  · rw [chunkAt, chunkAt, Vector.getElem?_eq_none (by omega), Vector.getElem?_eq_none (by omega)]

theorem SameLive.tokenOffset_eq {s t : State} (h : SameLive s t) : tokenOffset s = tokenOffset t := by
  rw [tokenOffset, tokenOffset, h.realColours_eq]

theorem SameLive.outputLength_eq {s t : State} (h : SameLive s t) : outputLength s = outputLength t := by
  rw [outputLength, outputLength, h.tokenOffset_eq, h.tokLen]

/-- The palette table lists valid entries only (R107). -/
theorem SameLive.tableEntry_eq {s t : State} (h : SameLive s t) (k : Nat) : tableEntry s k = tableEntry t k := by
  rw [tableEntry, tableEntry, ← h.realColours_eq]
  refine ite_congr rfl (fun hk => h.pal (k + 1) ?_) fun _ => rfl
  rw [realColours] at hk
  omega

/-- OUT shows valid entries and valid token bytes only (R54). -/
theorem SameLive.outByte_eq {s t : State} (h : SameLive s t) (k : Nat) : outByte s k = outByte t k := by
  rw [outByte, outByte, ← h.realColours_eq, ← h.tokenOffset_eq, ← h.outputLength_eq, h.tableEntry_eq]
  refine ite_congr rfl (fun _ => rfl) fun _ => ite_congr rfl (fun _ => rfl) fun hge => ?_
  refine ite_congr rfl (fun hlt => h.tokBuf _ ?_) fun _ => rfl
  rw [outputLength] at hlt
  omega

/-! ## The updates that keep the agreement -/

theorem SameLive.answer {s t : State} (h : SameLive s t) (v w : ResultWord) : SameLive (answer v s) (answer w t) :=
  { h with }

theorem SameLive.setRej {s t : State} (h : SameLive s t) : SameLive (setRej s) (setRej t) := { h with rej := rfl }

theorem SameLive.setCursors {s t : State} (h : SameLive s t) (hd tl : Nat) :
    SameLive (setCursors hd tl s) (setCursors hd tl t) := { h with }

theorem SameLive.setOutRd {s t : State} (h : SameLive s t) (n : Nat) : SameLive (setOutRd n s) (setOutRd n t) :=
  { h with outRd := h.lengthValue_eq n, freeCount := h.freeCountAfter_eq n }

/-- A valid position after the store is the one just written, or was valid before (R51). -/
theorem SameLive.storePixel {s t : State} (h : SameLive s t) (p : Pixel) (hroom : s.fill.toNat < 64) :
    SameLive (storePixel p s) (storePixel p t) :=
  { h with
    fill := by rw [storePixel_fill, storePixel_fill, h.fill]
    chunkBuf := fun j hj => by
      rw [storePixel_fill_toNat p hroom] at hj
      rw [chunkAt_storePixel p s (by omega), chunkAt_storePixel p t (by omega), ← h.fill]
      exact ite_congr rfl (fun _ => rfl) fun hne => h.chunkBuf j (by omega) }

/-- The padding writes every position that held no value (R186). -/
theorem SameLive.padChunk {s t : State} (h : SameLive s t) : SameLive (padChunk s) (padChunk t) :=
  { h with
    fill := rfl
    chunkBuf := fun j hj => by
      rw [padChunk_fill] at hj
      rw [chunkAt_padChunk s hj, chunkAt_padChunk t hj, ← h.fill]
      exact ite_congr rfl (fun _ => rfl) fun hlt => h.chunkBuf j (by omega) }

/-- A valid entry after the insert is the one just written, or was valid before (R103). -/
theorem SameLive.insertEntry {s t : State} (h : SameLive s t) (p : Pixel) (h7 : s.palSize.toNat ≤ 7) :
    SameLive (insertEntry p s) (insertEntry p t) :=
  { h with
    palSize := by rw [insertEntry_palSize, insertEntry_palSize, h.palSize]
    pal := fun k hk => by
      rw [insertEntry_palSize_toNat p h7] at hk
      rw [palAt_insertEntry, palAt_insertEntry, ← h.palSize]
      refine ite_congr rfl (fun _ => rfl) fun hold => ?_
      cases k with
      | zero => rfl
      | succ k => exact h.pal (k + 1) (by omega) }

/-- A valid byte after the append is the one just written, or was valid before: TOK_LEN, even where it gets a free
value, goes up by one at most (R153, log entry 8). -/
theorem SameLive.appendByte {s t : State} (h : SameLive s t) (b : Byte) : SameLive (appendByte s b) (appendByte t b) :=
  { h with
    tokLen := by rw [appendByte_tokLen, appendByte_tokLen, ← h.tokLen, h.lengthValue_eq]
    freeCount := by rw [appendByte_freeCount, appendByte_freeCount, ← h.tokLen, h.freeCountAfter_eq]
    tokBuf := fun a ha => by
      have hle : (Machine.appendByte s b).tokLen.toNat ≤ s.tokLen.toNat + 1 := lengthValue_toNat_le _ _
      rw [appendByte_tokBuf, appendByte_tokBuf, Memory.read_write, Memory.read_write, ← h.tokLen]
      exact ite_congr rfl (fun _ => rfl) fun hne => h.tokBuf a (by omega) }

theorem SameLive.appendBytes {s t : State} (h : SameLive s t) (bs : List Byte) :
    SameLive (appendBytes bs s) (appendBytes bs t) := by
  induction bs generalizing s t with
  | nil => exact h
  | cons b bs ih => exact ih (h.appendByte b)

/-- After a chunk's completion no position of CHUNK_BUF holds a value (R128). -/
theorem SameLive.completeChunk {s t : State} (h : SameLive s t) : SameLive (completeChunk s) (completeChunk t) :=
  { h with
    fill := rfl
    chunkBuf := fun j hj => absurd hj (Nat.not_lt_zero j)
    chunks := by rw [completeChunk_chunks, completeChunk_chunks, h.chunks] }

theorem SameLive.finishOperation {s t : State} (h : SameLive s t) :
    SameLive (finishOperation s) (finishOperation t) :=
  { h with
    state := rfl
    outLen := by rw [finishOperation_outLen, finishOperation_outLen, ← h.outputLength_eq, h.lengthValue_eq]
    outRd := rfl
    freeCount := by
      rw [finishOperation_freeCount, finishOperation_freeCount, ← h.outputLength_eq, h.freeCountAfter_eq] }

theorem SameLive.takeIssue {s t : State} (h : SameLive s t) (f : Fetched) (rest : List PortEvent) :
    SameLive (takeIssue f rest s) (takeIssue f rest t) := by
  cases f <;> exact { h with port := rfl }

theorem SameLive.takeReset {s t : State} (h : SameLive s t) (rest : List PortEvent) :
    SameLive (takeReset rest s) (takeReset rest t) where
  params := h.params
  state := rfl
  err := rfl
  rej := rfl
  palSize := rfl
  pal := fun _ _ => rfl
  fill := rfl
  chunkBuf := fun _ _ => rfl
  tokLen := rfl
  tokBuf := fun _ _ => rfl
  outLen := rfl
  outRd := rfl
  chunks := rfl
  freeCount := h.freeCount
  port := rfl

/-! ## The ends of a command -/

/-- The agreement of two states after a command, whose answers agree as well. -/
structure SameAnswered (s t : State) : Prop extends SameLive s t where
  result : s.result = t.result

theorem SameLive.answered {s t : State} (h : SameLive s t) (v : ResultWord) :
    SameAnswered (Machine.answer v s) (Machine.answer v t) where
  toSameLive := h.answer v v
  result := rfl

theorem SameLive.answerStatus {s t : State} (h : SameLive s t) : SameAnswered (answerStatus s) (answerStatus t) := by
  rw [Machine.answerStatus, Machine.answerStatus, h.status_eq]
  exact h.answered _

theorem SameLive.reject {s t : State} (h : SameLive s t) : SameAnswered (reject s) (reject t) := h.setRej.answerStatus

/-- What the error entry keeps, PAL, PAL_SIZE, CHUNKS and REJ, was in agreement before (R220). -/
theorem SameLive.errorEntry {s t : State} (h : SameLive s t) (c : ErrCode) :
    SameAnswered (errorEntry c s) (errorEntry c t) :=
  SameLive.answerStatus
    { h with
      state := rfl
      err := rfl
      fill := rfl
      chunkBuf := fun j hj => absurd hj (Nat.not_lt_zero j)
      tokLen := rfl
      tokBuf := fun a ha => absurd ha (Nat.not_lt_zero a)
      outLen := rfl
      outRd := rfl }

/-- How two runs of an internal operation end alike: both complete, with the same answer and in states related by `R`;
or both raise the same error in states that agree. -/
inductive OpResult.Alike (R : State → State → Prop) {α : Type} : OpResult α → OpResult α → Prop where
  | ok (a : α) {s t : State} (h : R s t) : Alike R (.ok a s) (.ok a t)
  | raised (c : ErrCode) {s t : State} (h : SameLive s t) : Alike R (.raised c s) (.raised c t)

theorem OpResult.Alike.andThen {R Q : State → State → Prop} {α β : Type} {x y : OpResult α}
    {f g : α → State → OpResult β} (hx : Alike R x y) (hf : ∀ a s t, R s t → Alike Q (f a s) (g a t)) :
    Alike Q (x.andThen f) (y.andThen g) := by
  cases hx with
  | ok a h => exact hf a _ _ h
  | raised c h => exact .raised c h

theorem OpResult.Alike.endCommand {x y : OpResult Unit} (h : Alike SameLive x y) :
    SameAnswered (endCommand x) (endCommand y) := by
  cases h with
  | ok _ h => exact h.answerStatus
  | raised c h => exact h.errorEntry c

theorem OpResult.Alike.endToken {x y : OpResult Unit} (h : Alike SameLive x y) :
    SameLive (endToken x) (endToken y) := by
  cases h with
  | ok _ h => exact h
  | raised c h => exact (h.errorEntry c).toSameLive

/-! ## The chunk scan -/

/-- The agreement of two states inside a chunk scan: the cursors and the whole chunk hold values there. -/
structure SameScan (s t : State) : Prop extends SameLive s t where
  head : s.head = t.head
  tail : s.tail = t.tail
  chunk : chunkAt s = chunkAt t

theorem SameScan.insertEntry {s t : State} (h : SameScan s t) (p : Pixel) (h7 : s.palSize.toNat ≤ 7) :
    SameScan (insertEntry p s) (insertEntry p t) :=
  { h.toSameLive.insertEntry p h7 with head := h.head, tail := h.tail, chunk := h.chunk }

theorem SameScan.setCursors {s t : State} (h : SameScan s t) (hd tl : Nat) :
    SameScan (setCursors hd tl s) (setCursors hd tl t) :=
  { h.toSameLive.setCursors hd tl with head := rfl, tail := rfl, chunk := h.chunk }

theorem SameScan.appendBytes {s t : State} (h : SameScan s t) (bs : List Byte) :
    SameScan (appendBytes bs s) (appendBytes bs t) := by
  induction bs generalizing s t with
  | nil => exact h
  | cons b bs ih =>
    exact ih { h.toSameLive.appendByte b with head := h.head, tail := h.tail, chunk := h.chunk }

/-- EMIT_TOKEN reads TOK_CAP and TOK_LEN (R154), and appends the same bytes to both states. -/
theorem emitToken_alike {R : State → State → Prop} {s t : State} (h : SameLive s t)
    (happend : ∀ bs, R (appendBytes bs s) (appendBytes bs t)) (i : PalIndex) (hd tl : Nat) :
    OpResult.Alike R (emitToken i hd tl s) (emitToken i hd tl t) := by
  unfold emitToken
  rw [← h.params, ← h.tokLen]
  split_ifs
  · exact .ok () (happend _)
  · exact .raised _ h
  · exact .raised _ h

theorem lookupOrInsert_alike {s t : State} (h : SameScan s t) (p : Pixel) :
    OpResult.Alike SameScan (lookupOrInsert p s) (lookupOrInsert p t) := by
  unfold lookupOrInsert
  rw [← h.toSameLive.findEntry_eq, ← h.palSize]
  cases findEntry p s with
  | some k => exact .ok _ h
  | none =>
    dsimp only
    split_ifs with h8
    · exact .raised _ h.toSameLive
    · exact .ok _ (h.insertEntry p (by omega))

theorem scanStep_alike {s t : State} (h : SameScan s t) : OpResult.Alike SameScan (scanStep s) (scanStep t) := by
  unfold scanStep
  rw [← h.chunk, ← h.head, ← h.tail]
  refine (lookupOrInsert_alike h _).andThen fun i s1 t1 h1 => ?_
  have hmoved := h1.setCursors (headAfter (chunkAt s) s.head.toNat s.tail.toNat)
    (tailAfter (chunkAt s) s.head.toNat s.tail.toNat)
  exact emitToken_alike hmoved.toSameLive hmoved.appendBytes i _ _

theorem scanLoop_alike (n : Nat) {s t : State} (h : SameScan s t) :
    OpResult.Alike SameScan (scanLoop n s) (scanLoop n t) := by
  induction n generalizing s t with
  | zero => exact .ok () h
  | succ n ih =>
    rw [scanLoop, scanLoop, ← h.head, ← h.tail]
    split_ifs
    · exact (scanStep_alike h).andThen fun _ _ _ h1 => ih h1
    · exact .ok () h

/-- ENCODE_CHUNK sets the cursors itself, and of a full chunk it reads no position that holds no value (R120). -/
theorem encodeChunk_alike {s t : State} (h : SameLive s t) (hfull : s.fill = 64#7) :
    OpResult.Alike SameLive (encodeChunk s) (encodeChunk t) := by
  have hchunk : chunkAt s = chunkAt t := h.chunkAt_eq (by rw [hfull]; decide)
  have hstart : SameScan (setCursors 0 63 s) (setCursors 0 63 t) :=
    { h.setCursors 0 63 with head := rfl, tail := rfl, chunk := hchunk }
  exact (scanLoop_alike Config.chunk hstart).andThen fun _ _ _ hend => .ok () hend.toSameLive.completeChunk

theorem scanIfFull_alike {s t : State} (h : SameLive s t) :
    OpResult.Alike SameLive (scanIfFull s) (scanIfFull t) := by
  unfold scanIfFull
  rw [← h.fill]
  split_ifs with hfull
  · exact encodeChunk_alike h hfull
  · exact .ok () h

theorem finalChunk_alike {s t : State} (h : SameLive s t) :
    OpResult.Alike SameLive (finalChunk s) (finalChunk t) := by
  unfold finalChunk
  rw [← h.fill, ← h.params]
  split_ifs
  · exact .ok () h
  · cases s.params.padPolicy with
    | reject => exact .raised _ h
    | padSentinel => exact encodeChunk_alike h.padChunk rfl

/-! ## The instructions and the step -/

/-- How an instruction or a step from two states ends alike: both go on, to states related by `R`, or both stop with the
same fault. -/
inductive OutcomesAlike (R : State → State → Prop) :
    Host.Outcome State Fault Refusal → Host.Outcome State Fault Refusal → Prop where
  | next {s t : State} (h : R s t) : OutcomesAlike R (.next s) (.next t)
  | fault (r : Fault) : OutcomesAlike R (.fault r) (.fault r)

theorem OutcomesAlike.mono {R Q : State → State → Prop} {x y : Host.Outcome State Fault Refusal}
    (h : OutcomesAlike R x y) (hRQ : ∀ s t, R s t → Q s t) : OutcomesAlike Q x y := by
  cases h with
  | next h => exact .next (hRQ _ _ h)
  | fault r => exact .fault r

theorem OutcomesAlike.exists_next {R : State → State → Prop} {s : State} {y : Host.Outcome State Fault Refusal}
    (h : OutcomesAlike R (.next s) y) : ∃ t, y = .next t ∧ R s t := by
  cases h with
  | next h => exact ⟨_, rfl, h⟩

theorem OutcomesAlike.eq_fault {R : State → State → Prop} {r : Fault} {y : Host.Outcome State Fault Refusal}
    (h : OutcomesAlike R (.fault r) y) : y = .fault r := by
  cases h
  rfl

theorem execStart_alike {s t : State} (h : SameLive s t) :
    OutcomesAlike SameAnswered (execStart s) (execStart t) := by
  have hopened := startForgetsHistory s t _ _ h.params h.freeCount h.port rfl rfl
  have hresult (u : State) : (answerStatus (openOperation u)).result = 0x00000001#32 := status_openOperation u
  exact .next { hopened with result := (hresult s).trans (hresult t).symm }

theorem execPushPixel_alike {s t : State} (h : SameLive s t) (p : Pixel) :
    OutcomesAlike SameAnswered (execPushPixel p s) (execPushPixel p t) := by
  unfold execPushPixel
  rw [← h.state, ← h.fill]
  split_ifs with hstate hfull
  · exact .next h.reject
  · exact .fault _
  · exact .next (scanIfFull_alike (h.storePixel p (by omega))).endCommand

theorem execEndInput_alike {s t : State} (h : SameLive s t) :
    OutcomesAlike SameAnswered (execEndInput s) (execEndInput t) := by
  unfold execEndInput
  rw [← h.state]
  split_ifs
  · exact .next h.reject
  · exact .next ((finalChunk_alike h).andThen fun _ _ _ h1 => .ok () h1.finishOperation).endCommand

theorem execReadOut_alike {s t : State} (h : SameLive s t) :
    OutcomesAlike SameAnswered (execReadOut s) (execReadOut t) := by
  unfold execReadOut
  rw [← h.state, ← h.outRd, ← h.outLen, ← h.outByte_eq]
  split_ifs
  · exact .next (h.setRej.answered _)
  · exact .next (h.answered _)
  · cases outByte s s.outRd.toNat with
    | some b => exact .next ((h.setOutRd _).answered _)
    | none => exact .fault _

theorem exec_command_alike {s t : State} (h : SameLive s t) {i : Instr} (hi : isCommand i = true) :
    OutcomesAlike SameAnswered (exec i s) (exec i t) := by
  cases i with
  | nop => exact .next h.answerStatus
  | start => exact execStart_alike h
  | pushPixel p => exact execPushPixel_alike h p
  | endInput => exact execEndInput_alike h
  | readOut => exact execReadOut_alike h
  | readOutLen =>
    change OutcomesAlike SameAnswered (execReadOutLen s) (execReadOutLen t)
    rw [execReadOutLen, execReadOutLen, ← h.outLen]
    exact .next (h.answered _)
  | tokenShort | tokenLong => cases hi

theorem exec_token_alike {s t : State} (h : SameLive s t) {i : Instr} (hi : isCommand i = false) :
    OutcomesAlike SameLive (exec i s) (exec i t) := by
  cases i with
  | tokenShort k hd | tokenLong k hd tl => exact .next (emitToken_alike h h.appendBytes k _ _).endToken
  | nop | start | pushPixel | endInput | readOut | readOutLen => cases hi

/-- Every word of the command port, a reserved opcode too, ends alike and with the same answer. -/
theorem runFetched_command_alike {s t : State} (h : SameLive s t) (w : CommandWord) :
    OutcomesAlike SameAnswered (runFetched (.command w) s) (runFetched (.command w) t) := by
  unfold runFetched
  cases hd : decode (.command w) with
  | ok i => exact exec_command_alike h (isCommand_of_decode hd)
  | error e =>
    obtain ⟨opc⟩ := e
    exact .next h.reject

theorem isCommand_decodeToken (b0 b1 : Byte) : isCommand (decodeToken b0 b1) = false := by
  unfold decodeToken
  split <;> rfl

theorem runFetched_token_alike {s t : State} (h : SameLive s t) (b0 b1 : Byte) :
    OutcomesAlike SameLive (runFetched (.token b0 b1) s) (runFetched (.token b0 b1) t) :=
  exec_token_alike h (isCommand_decodeToken b0 b1)

/-- The agreement of two states after a step that found the port as `found`: with the same answer where that was a
command. -/
structure SameAfter (found : List PortEvent) (s t : State) : Prop extends SameLive s t where
  result : ∀ w rest, found = .issue (.command w) :: rest → s.result = t.result

theorem step_alike {s t : State} (h : SameLive s t) : OutcomesAlike (SameAfter s.port) (step s) (step t) := by
  rcases hp : s.port with _ | ⟨_ | ⟨w⟩ | ⟨b0, b1⟩, rest⟩
  all_goals have hp' := h.port.symm.trans hp
  · rw [step_wait hp, step_wait hp']
    exact .next { h with result := nofun }
  · rw [step_reset hp, step_reset hp']
    exact .next { h.takeReset rest with result := nofun }
  · rw [step_issue hp, step_issue hp']
    exact (runFetched_command_alike (h.takeIssue _ rest) w).mono fun _ _ hend =>
      { hend.toSameLive with result := fun _ _ _ => hend.result }
  · rw [step_issue hp, step_issue hp']
    exact (runFetched_token_alike (h.takeIssue _ rest) b0 b1).mono fun _ _ hend => { hend with result := nofun }

/-- Settles O56: the two ways in which steps from two states that agree end alike. -/
theorem unwrittenStateIsNeverRead : Obligations.UnwrittenStateIsNeverRead := by
  intro s t h
  have halike := step_alike h
  refine ⟨fun s' hs => ?_, fun r hs => ?_⟩
  · rw [hs] at halike
    obtain ⟨t', ht, hend⟩ := halike.exists_next
    exact ⟨t', ht, hend.toSameLive, hend.result⟩
  · rw [hs] at halike
    exact halike.eq_fault

end Sys2Proof.Machine
end
